-- ==== Sys2Proof/Word.lean ====
section
/-! DEFINITION. The word types of the block: 32-bit dwords and epoch identifiers, and the 16 dwords of a command. -/

namespace Sys2Proof

/-- A 32-bit value: one dword of a command, a stream identifier, a half of a PRP or an LBA (00_scope.md R17). -/
abbrev Word := BitVec 32

/-- An epoch identifier; `EPOCH_W` = 32 (00_scope.md R15). -/
abbrev Epoch := BitVec 32

/-- The raw payload of a command, `dw[0]` to `dw[15]`, 32 bits each (10_state.md R46, 30_encoding.md R100). -/
structure Dwords where
  dw0 : Word
  dw1 : Word
  dw2 : Word
  dw3 : Word
  dw4 : Word
  dw5 : Word
  dw6 : Word
  dw7 : Word
  dw8 : Word
  dw9 : Word
  dw10 : Word
  dw11 : Word
  dw12 : Word
  dw13 : Word
  dw14 : Word
  dw15 : Word
  deriving DecidableEq, Repr, Inhabited

end Sys2Proof
end

