-- ==== Sys2Proof/Syntax.lean ====
section
/-! DEFINITION. The syntax of the block: commands as they are fetched, tracker-port requests as they are made, and the
decoded instructions, one constructor per row of spec/opcode_table.json. -/

namespace Sys2Proof

/-- The metadata a command is delivered with (10_state.md R46): queue id, `commandSlotTag` and `commandSequenceNumber`.
Their widths are open (00_scope.md R16), so each is a natural number; WellFormed says when it fits. -/
structure CmdTag where
  qid : Nat
  slot : Nat
  seq : Nat
  deriving DecidableEq, Repr, Inhabited

/-- A command as `FetchCommand` delivers it: its metadata and its 16 raw dwords (10_state.md R46). -/
structure Command where
  tag : CmdTag
  dw : Dwords
  deriving DecidableEq, Repr, Inhabited

/-- A request at the tracker port (30_encoding.md R108): the 2-bit `trk_op`, the 32-bit stream and the epoch. -/
structure PortReq where
  op : BitVec 2
  stream : Word
  epoch : Epoch
  deriving DecidableEq, Repr, Inhabited

/-- The I/O-command view of the 16 dwords (30_encoding.md R101): the fields the decoder names, and, under the names of the
dwords they stand in, the bits it ignores (R103), which a barrier-mode WRITE still passes on unchanged. The opcode
`dw[0][7:0]` is not part of the view: the constructor of `Instr` says it. -/
structure IoView where
  prp1Lo : Word
  prp1Hi : Word
  prp2Lo : Word
  prp2Hi : Word
  lbaLow : Word
  lbaHigh : Word
  nlb : BitVec 16
  dw0Rest : BitVec 24
  dw1 : Word
  dw2 : Word
  dw3 : Word
  dw4 : Word
  dw5 : Word
  dw12Rest : BitVec 16
  dw13 : Word
  dw14 : Word
  dw15 : Word
  deriving DecidableEq, Repr, Inhabited

/-- The instructions of the block (00_scope.md R3), one per row of spec/opcode_table.json. -/
inductive Instr where
  /-- FLUSH, opcode 0x00 on an I/O queue (42_io_commands.md R180). -/
  | flush (tag : CmdTag) (view : IoView)
  /-- WRITE, opcode 0x01 on an I/O queue (42_io_commands.md R187). -/
  | write (tag : CmdTag) (view : IoView)
  /-- READ, opcode 0x02 on an I/O queue (42_io_commands.md R186). -/
  | read (tag : CmdTag) (view : IoView)
  /-- ADMIN, any command of queue 0 (43_control_loop.md R214). -/
  | admin (tag : CmdTag) (dw : Dwords)
  /-- PUSH, `trk_op` = 0 (40_barrier_tracker.md R130). -/
  | push (stream : Word) (epoch : Epoch)
  /-- POP, `trk_op` = 1 (40_barrier_tracker.md R132). -/
  | pop (stream : Word)
  /-- COUNT, `trk_op` = 2 (40_barrier_tracker.md R133). -/
  | count (stream : Word)
  deriving DecidableEq, Repr, Inhabited

end Sys2Proof
end

