-- ==== Sys2Proof/Config.lean ====
section
/-! DEFINITION. The configuration of the block (00_scope.md section 3): the constants the spec fixes, the parameters it leaves
open, the form of the environment's draws, and the free value that stands for the draws no script gives. -/

namespace Sys2Proof

/-- Which capacity check PUSH applies, `CAP_CHECK` (00_scope.md R10, 40_barrier_tracker.md R131). -/
inductive CapCheck where
  /-- Fault when `count >= TRK_CAP` before the append; the default. -/
  | strict
  /-- Fault when `count > TRK_CAP` before the append; accepts a 257th push. -/
  | reference
  deriving DecidableEq, Repr, Inhabited

/-- The parameters of the block that the spec leaves open (00_scope.md section 3, R10, R13 to R16). They are an argument of
the model: State carries them, no step writes them, and a statement about every state is a statement about every value of
them. DESIGN CHOICE of form, safe (log 1). -/
structure Params where
  /-- `CAP_CHECK`. -/
  capCheck : CapCheck
  /-- `BARRIER_MODE` (R13). -/
  barrierMode : Bool
  /-- `STORAGE_CAPACITY_L` (R14). -/
  storageCapacityL : Word
  /-- `STORAGE_CAPACITY_H` (R14). -/
  storageCapacityH : Word
  /-- `PRP_HI_CEIL` (R14). -/
  prpHiCeil : Word
  /-- `EPOCH_INVALID`, the sentinel of unused slots (R15). -/
  epochInvalid : Epoch
  /-- `BBT_BUF_BASE` (R16). -/
  bbtBufBase : Nat
  /-- `QID_W` (R16). -/
  qidW : Nat
  /-- `SLOT_W` (R16). -/
  slotW : Nat
  /-- `SEQ_W` (R16). -/
  seqW : Nat
  /-- `TIMER_W` (R16). -/
  timerW : Nat
  deriving DecidableEq, Repr, Inhabited

/-- `TRK_CAP`, the capacity of each barrier stream (00_scope.md R8). -/
abbrev Config.trkCap : Nat := 256

/-- `RESET_ESCALATE`, the consecutive RESET visits before a link reset (00_scope.md R12). -/
abbrev Config.resetEscalate : Nat := 5

/-- `ADMIN_ARM`, the arguments of the admin-queue arm action (00_scope.md section 3). -/
abbrev Config.adminArm : Nat × Nat := (1, 1)

/-- The parameter values State.reset carries: the test configuration of 95_test_vectors.md section 2, with `BARRIER_MODE` = 0
and widths of 16, 16, 16 and 32 bits. DESIGN CHOICE, unsafe for a statement about runs from State.reset alone (log 1). -/
def Config.testParams : Params where
  capCheck := .strict
  barrierMode := false
  storageCapacityL := 0x01000000#32
  storageCapacityH := 1#32
  prpHiCeil := 0x00010000#32
  epochInvalid := 0xFFFFFFFF#32
  bbtBufBase := 0x00100000
  qidW := 16
  slotW := 16
  seqW := 16
  timerW := 32

/-- One PUSH of a write-completion event: any stream identifier and any epoch (10_state.md R72). -/
structure PushReq where
  stream : Word
  epoch : Epoch
  deriving DecidableEq, Repr, Inhabited

/-- What the admin-command handler may do to the block before it returns (10_state.md R73). -/
inductive HandlerAct where
  /-- Set or clear `ioq_valid[p]`. -/
  | setIoq (p : Fin 8) (v : Bool)
  /-- Set or clear `cache_en`. -/
  | setCache (v : Bool)
  /-- Emit a completion of its own. -/
  | complete (slot specific status : Nat)
  deriving DecidableEq, Repr, Inhabited

/-- The environment's draws for one tick (10_state.md section 8.1, 30_encoding.md R109). -/
structure Inputs where
  /-- `reset_force` (R51). -/
  resetForce : Bool
  /-- `enable_evt` (R52). -/
  enableEvt : Bool
  /-- `cc_en` (R34, R50). -/
  ccEn : Bool
  /-- `cc_shn` (R35, R50). -/
  ccShn : BitVec 2
  /-- `dma_pending` (R53). -/
  dmaPending : Bool
  /-- `nand_outstanding` (R53). -/
  nandOutstanding : Bool
  /-- `req_blocked` (R53). -/
  reqBlocked : Bool
  /-- `timer_now` (R54). -/
  timerNow : Nat
  /-- Commands the host queues before this tick, oldest first (41_state_controller.md R152; log 4). -/
  arrivals : List Command
  /-- Which queued command `FetchCommand` returns in this tick, by its place in the host queue; `none`, or a place past the
  end, is the answer NONE (R55; log 4). -/
  fetch : Option Nat
  /-- What the admin handler does if this tick calls it, in order (R73). -/
  handler : List HandlerAct
  /-- The PUSH list at each storage-pipeline return of this tick, in the order of the returns; a return past the end of the
  list raises none (R71), but for what the next field says. -/
  pushes : List (List PushReq)
  /-- Past the end of the PUSH lists, whether the environment pushes an epoch onto a stream being drained at the return of each
  of its flushes, for ever, so that the drain never ends (42_io_commands.md R181; 70_reset_and_hazards.md R272). A drain that
  ends takes finitely many lists, so this bit and the lists are every choice R71 gives (log 11). -/
  pushesNeverEnd : Bool
  deriving DecidableEq, Repr, Inhabited

/-- Draws in which every signal is 0, the host queues nothing and no collaborator acts on the block. -/
def Inputs.quiet : Inputs where
  resetForce := false
  enableEvt := false
  ccEn := false
  ccShn := 0#2
  dmaPending := false
  nandOutstanding := false
  reqBlocked := false
  timerNow := 0
  arrivals := []
  fetch := none
  handler := []
  pushes := []
  pushesNeverEnd := false

/-- FREE VALUE: the environment's draws for a tick that no script gives, by the number of free draws taken before it. It has
no body that a proof can see: a run whose script is used up is a run under any environment (log 2). -/
opaque Config.freeInputs : Nat → Inputs

end Sys2Proof
end

