-- ==== Sys2Proof/Machine/State.lean ====
section
/-! DEFINITION. The state of the block as plain data (10_state.md), its actions, its fault codes, the reasons a step of the
model stops, and the state after reset. -/

namespace Sys2Proof.Machine

/-- The lifecycle states (10_state.md R30). -/
inductive CtlState where
  | idle
  | waitCcEn
  | running
  | shutdown
  | waitReset
  | reset
  deriving DecidableEq, Repr, Inhabited

/-- The admin queue's arm state as last posted (10_state.md R38). -/
inductive AdminQ where
  | cleared
  | armed (a b : Nat)
  deriving DecidableEq, Repr, Inhabited

/-- `TRK_STREAMS`: the two stream identifiers the tracker accepts (00_scope.md R9). -/
inductive StreamId where
  | one
  | two
  deriving DecidableEq, Repr, Inhabited

/-- The 256 slots of one tracker buffer (20_memory.md R81), as the list of the slots that do not hold the sentinel
`EPOCH_INVALID`, by rising slot number. The smallest unit is one epoch (20_memory.md R85). The canonical form is
`Memory.wf` of Machine/Ops.lean (log 13). -/
abbrev Memory := List (Nat × Epoch)

/-- One BarrierStream (10_state.md R42): its buffer, `head`, `tail` and `count`. -/
structure BarrierStream where
  buf : Memory
  head : Fin 256
  tail : Fin 256
  count : Nat
  deriving DecidableEq, Repr, Inhabited

/-- The fault codes (60_exceptions.md R230). -/
inductive FaultCode where
  | none
  | badOpcode
  | lbaLowRange
  | lbaHighRange
  | prpMisaligned
  | prpHighRange
  | trkBadStream
  | trkEmpty
  | trkFull
  deriving DecidableEq, Repr, Inhabited

/-- Which PRP pointer of a command, `k` = 1 or 2 (42_io_commands.md R184). -/
inductive PrpNo where
  | prp1
  | prp2
  deriving DecidableEq, Repr, Inhabited

/-- The value recorded with a fault code (60_exceptions.md R230): one value, or a PRP number and the half it is about (log
16). -/
inductive FaultInfo where
  | word (v : Word)
  | prp (k : PrpNo) (half : Word)
  deriving DecidableEq, Repr, Inhabited

/-- The `opType` of a submission (10_state.md R57). -/
inductive OpType where
  | write
  | read
  deriving DecidableEq, Repr, Inhabited

/-- The actions of the block (10_state.md section 8.2), and, last, the completion an admin handler emits of its own (R73),
kept apart from the block's so that a trace says whose it is (log 17). -/
inductive Action where
  | fetchCommand
  | adminCommandHandler (c : Command)
  | translateAndSubmit (slot : Nat) (startLba : BitVec 64) (nlb : BitVec 16) (op : OpType)
  | translateAndSubmitWriteWithBarrier (slot : Nat) (raw : Dwords)
  | flushSubmissionQueueToLowLevel
  | reconcileCompletedDmaRequests
  | scheduleStorageRequests
  | flushAllBufferedWrites
  | flushBufferedWritesForEpoch (stream : StreamId) (epoch : Epoch)
  | postCompletion (slot specific status : Nat)
  | writeCstsRdy (v : Bool)
  | writeCstsShst (v : BitVec 2)
  | setAdminQueue (a b : Nat)
  | clearAdminQueue
  | clearIoQueuePair (p : Fin 8)
  | persistGrownBadBlockTable (base : Nat)
  | linkResetAsync
  | initFtl
  | handlerCompletion (slot specific status : Nat)
  deriving DecidableEq, Repr, Inhabited

/-- What the tracker port answered last (30_encoding.md R108): nothing yet, the epoch of a POP or the 9-bit count of a COUNT.
The model's own output register (log 5). -/
inductive PortResult where
  | none
  | epoch (e : Epoch)
  | count (c : BitVec 9)
  deriving DecidableEq, Repr, Inhabited

/-- One coming event of the environment: the draws of a tick, a direct request at the tracker port (log 5), or a block reset
with the value `flush_timer_base` happens to hold after it (70_reset_and_hazards.md R260; log 19). -/
inductive Event where
  | tick (inp : Inputs)
  | port (r : PortReq)
  | blockReset (timer : Nat)
  deriving DecidableEq, Repr, Inhabited

/-- Why a step of the model stops with a fault. -/
inductive Fault where
  /-- Raised by `step`, and by every meaning, on a halted block, with the fault code and info the block holds: a halted block
  takes no step (60_exceptions.md R231, R234). Safe: the spec gives no step there (log 9). -/
  | halted (code : FaultCode) (info : FaultInfo)
  /-- Raised by FLUSH in barrier mode, and by the `step` that runs it, when the environment pushes onto the stream being drained
  at every return for ever: the tick is stuck in the drain of that stream (42_io_commands.md R181, 93_implementation_defined.md
  I23). `trace` is what the tick has emitted when that begins; from then on it emits flushes of that stream only, without end.
  Safe: the tick has no end, so the spec gives no state after it (log 11). -/
  | drainNeverEnds (stream : StreamId) (trace : List Action)
  deriving DecidableEq, Repr, Inhabited

/-- Why a step of the model is refused. -/
inductive Refusal where
  /-- Raised by `exec` alone, for an instruction without a meaning; no arm of it does. Safe. -/
  | notModelled (mnemonic : String)
  /-- Raised by `step` on a tracker-port request with `trk_op` = 3, which the spec says a model refuses
  (30_encoding.md R108, 93_implementation_defined.md I18). Safe. -/
  | badTrkOp
  deriving DecidableEq, Repr, Inhabited

/-- The state. Fields up to `runBg` are the block's own (10_state.md); then the ports of the current tick, the outputs, and
the environment as plain data. -/
structure State where
  /-- The parameters (00_scope.md section 3); never written (log 1). -/
  params : Params
  /-- `booted` (R48). -/
  booted : Bool
  /-- `halted` (R45). -/
  halted : Bool
  /-- `fault_code` (R45). -/
  faultCode : FaultCode
  /-- `fault_info` (R45). -/
  faultInfo : FaultInfo
  /-- `ctl_state` (R30). -/
  ctlState : CtlState
  /-- `cache_en` (R33). -/
  cacheEn : Bool
  /-- `csts_rdy` (R36). -/
  cstsRdy : Bool
  /-- `csts_shst` (R37). -/
  cstsShst : BitVec 2
  /-- `admin_q` (R38). -/
  adminQ : AdminQ
  /-- `ioq_valid[0..7]` (R39). -/
  ioqValid : Vector Bool 8
  /-- `rst_cnt` (R40). -/
  rstCnt : Nat
  /-- `flush_timer_base` (R41). -/
  flushTimerBase : Nat
  /-- `trk[1]` (R42). -/
  trk1 : BarrierStream
  /-- `trk[2]` (R42). -/
  trk2 : BarrierStream
  /-- `cmd`, the command of the current dispatch (R46; log 18). -/
  cmd : Option Command
  /-- `run_bg` (R47). -/
  runBg : Bool
  /-- The input ports: the draws of the current tick, its PUSH lists consumed as the tick's calls return (R50 to R54, R71). -/
  inp : Inputs
  /-- The tracker port's last answer; the model's own (log 5). -/
  portResult : PortResult
  /-- The actions of the current tick, in emission order (00_scope.md R25; log 8). -/
  trace : List Action
  /-- Commands the host has queued and no fetch has returned, oldest first (R55; log 4). -/
  hostq : List Command
  /-- The environment's coming events (log 2). -/
  script : List Event
  /-- How many free draws have been taken: the argument of `Config.freeInputs`; the model's own (log 2). -/
  drawNo : Nat
  deriving DecidableEq, Repr

/-- An empty BarrierStream: no slot listed, so every slot holds `EPOCH_INVALID` (10_state.md R75). -/
def BarrierStream.empty : BarrierStream := ⟨[], 0, 0, 0⟩

/-- The state after reset, before boot (10_state.md R75), for the parameters `p` and the value `timer` that the unspecified
`flush_timer_base` happens to hold. The fields R75 does not name (the command latch, `run_bg`, the ports, the outputs and the
environment) are empty or 0: DESIGN CHOICE (log 7). -/
def State.resetOf (p : Params) (timer : Nat) : State where
  params := p
  booted := false
  halted := false
  faultCode := .none
  faultInfo := .word 0#32
  ctlState := .idle
  cacheEn := false
  cstsRdy := false
  cstsShst := 0#2
  adminQ := .cleared
  ioqValid := Vector.replicate 8 false
  rstCnt := 0
  flushTimerBase := timer
  trk1 := .empty
  trk2 := .empty
  cmd := none
  runBg := false
  inp := .quiet
  portResult := .none
  trace := []
  hostq := []
  script := []
  drawNo := 0

/-- The machine right after reset. Its parameters are `Config.testParams` (log 1) and its `flush_timer_base`, which the spec
leaves unspecified, is 0: DESIGN CHOICE, unsafe (log 6). -/
def State.reset : State := State.resetOf Config.testParams 0

end Sys2Proof.Machine
end

