-- ==== Sys2Proof/Machine/Ops.lean ====
section
/-! DEFINITION. The named operations over the state: the tracker buffers, the action trace, taking a fault, collaborator calls
and the PUSHes at their return, and the three tracker operations. -/

namespace Sys2Proof.Machine

/-! ### Tracker buffers -/

/-- Reading slot `a`: an unlisted slot holds the sentinel `inv` (10_state.md R44). -/
def Memory.read (inv : Epoch) : Memory → Nat → Epoch
  | [], _ => inv
  | (b, w) :: m, a => if a = b then w else Memory.read inv m a

/-- Writing slot `a`, keeping the canonical form: writing the sentinel removes the entry. -/
def Memory.write (inv : Epoch) : Memory → Nat → Epoch → Memory
  | [], a, v => if v = inv then [] else [(a, v)]
  | (b, w) :: m, a, v =>
    if a = b then (if v = inv then m else (a, v) :: m)
    else if a < b then (if v = inv then (b, w) :: m else (a, v) :: (b, w) :: m)
    else (b, w) :: Memory.write inv m a v

/-- The canonical form: slot numbers strictly rising from `lo` and below 256, no slot listed with the sentinel. -/
def Memory.wfFrom (inv : Epoch) : Nat → Memory → Bool
  | _, [] => true
  | lo, (b, w) :: m => decide (lo ≤ b) && (decide (b < Config.trkCap) && (decide (w ≠ inv) && Memory.wfFrom inv (b + 1) m))

/-- The canonical form of a tracker buffer. -/
def Memory.wf (inv : Epoch) (m : Memory) : Bool := Memory.wfFrom inv 0 m

/-! ### Trace, faults, sequencing -/

/-- `emit A(args)`: append an action to the tick's trace (00_scope.md R21). -/
def emit (a : Action) (s : State) : State := { s with trace := s.trace ++ [a] }

/-- Taking a fault, `raise Fault(code, info)` (60_exceptions.md R231): the block halts, with the code and the info recorded.
Nothing else changes; that the tick ends at once is `andThen` (00_scope.md R20). There is no return from a fault
(60_exceptions.md R234): `blockReset` of Machine/Control.lean alone leaves the halted state. -/
def raiseFault (code : FaultCode) (info : FaultInfo) (s : State) : State :=
  { s with halted := true, faultCode := code, faultInfo := info }

/-- The next statement of a tick: skipped once a fault has halted the block (00_scope.md R20). -/
def andThen (s : State) (f : State → State) : State := if s.halted then s else f s

/-- A meaning that may stop, run on the block: a halted block takes no step (60_exceptions.md R231). -/
def attempt (s : State) (f : State → Host.Outcome State Fault Refusal) : Host.Outcome State Fault Refusal :=
  if s.halted then .fault (.halted s.faultCode s.faultInfo) else f s

/-- A meaning that answers a next state, run on the block. -/
def perform (s : State) (f : State → State) : Host.Outcome State Fault Refusal := attempt s fun s => .next (f s)

/-- Going on after an outcome that is a next state. -/
def onNext (o : Host.Outcome State Fault Refusal) (f : State → Host.Outcome State Fault Refusal) :
    Host.Outcome State Fault Refusal :=
  match o with
  | .next s => f s
  | .fault r => .fault r
  | .refused r => .refused r

/-! ### The epoch barrier tracker (40_barrier_tracker.md) -/

/-- The stream a 32-bit identifier names, if it is 1 or 2 (00_scope.md R9). -/
def streamOf (w : Word) : Option StreamId :=
  if w = 1#32 then some .one else if w = 2#32 then some .two else none

/-- The identifier of a stream. -/
def streamWord : StreamId → Word
  | .one => 1#32
  | .two => 2#32

/-- `trk[k]`. -/
def trk (s : State) : StreamId → BarrierStream
  | .one => s.trk1
  | .two => s.trk2

/-- `trk[k] <- b`. -/
def setTrk (k : StreamId) (b : BarrierStream) (s : State) : State :=
  match k with
  | .one => { s with trk1 := b }
  | .two => { s with trk2 := b }

/-- The capacity check of PUSH, by `CAP_CHECK` (40_barrier_tracker.md R131). -/
def capacityExceeded (c : CapCheck) (count : Nat) : Bool :=
  match c with
  | .strict => decide (count ≥ Config.trkCap)
  | .reference => decide (count > Config.trkCap)

/-- The stream after an epoch has been appended at its tail (40_barrier_tracker.md R130). -/
def BarrierStream.append (inv : Epoch) (b : BarrierStream) (e : Epoch) : BarrierStream :=
  { b with buf := b.buf.write inv b.tail e, tail := b.tail + 1, count := b.count + 1 }

/-- The stream after its head slot has been vacated, the sentinel written back into it (40_barrier_tracker.md R132). -/
def BarrierStream.dropHead (inv : Epoch) (b : BarrierStream) : BarrierStream :=
  { b with buf := b.buf.write inv b.head inv, head := b.head + 1, count := b.count - 1 }

/-- PUSH (40_barrier_tracker.md R130): the stream check, then the capacity check, then the append. -/
def trkPush (stream : Word) (e : Epoch) (s : State) : State :=
  match streamOf stream with
  | none => raiseFault .trkBadStream (.word stream) s
  | some k =>
    if capacityExceeded s.params.capCheck (trk s k).count then raiseFault .trkFull (.word stream) s
    else setTrk k ((trk s k).append s.params.epochInvalid e) s

/-- POP (40_barrier_tracker.md R132): the stream check, then the empty check; the oldest epoch, if no fault is taken. -/
def trkPop (stream : Word) (s : State) : State × Option Epoch :=
  match streamOf stream with
  | none => (raiseFault .trkBadStream (.word stream) s, none)
  | some k =>
    if (trk s k).count = 0 then (raiseFault .trkEmpty (.word stream) s, none)
    else (setTrk k ((trk s k).dropHead s.params.epochInvalid) s,
          some ((trk s k).buf.read s.params.epochInvalid (trk s k).head))

/-- COUNT (40_barrier_tracker.md R133): the stream's fill level, if no fault is taken. -/
def trkCount (stream : Word) (s : State) : State × Option Nat :=
  match streamOf stream with
  | none => (raiseFault .trkBadStream (.word stream) s, none)
  | some k => (s, some (trk s k).count)

/-- The tracker port's answer (30_encoding.md R108; log 5). -/
def answerPort (r : PortResult) (s : State) : State := { s with portResult := r }

/-! ### Collaborator calls -/

/-- The PUSHes of one storage-pipeline return, in list order; one that faults halts the block there (10_state.md R71). -/
def pushAll : List PushReq → State → State
  | [], s => s
  | r :: rs, s => andThen (trkPush r.stream r.epoch s) (pushAll rs)

/-- The PUSH lists still to come, once the next one has been taken. -/
def setPushes (ls : List (List PushReq)) (s : State) : State := { s with inp := { s.inp with pushes := ls } }

/-- A storage-pipeline call (10_state.md R71): the action is emitted, and at its return the environment's next PUSH list is
performed before the block's next statement. -/
def callPipeline (a : Action) (s : State) : State :=
  match s.inp.pushes with
  | [] => emit a s
  | l :: ls => pushAll l (setPushes ls (emit a s))

/-- One act of the admin handler (10_state.md R73). -/
def handlerAct (a : HandlerAct) (s : State) : State :=
  match a with
  | .setIoq p v => { s with ioqValid := s.ioqValid.set p v }
  | .setCache v => { s with cacheEn := v }
  | .complete slot specific status => emit (.handlerCompletion slot specific status) s

/-- What the admin handler does before it returns, in order (10_state.md R73). -/
def handlerActs : List HandlerAct → State → State
  | [], s => s
  | a :: as, s => handlerActs as (handlerAct a s)

/-! ### The barrier drain -/

/-- One round of the drain's loop body: POP the stream and flush the epoch (42_io_commands.md R181). -/
def drainOnce (k : StreamId) (s : State) : State :=
  match trkPop (streamWord k) s with
  | (s', some e) => callPipeline (.flushBufferedWritesForEpoch k e) s'
  | (s', none) => s'

/-- From here on the environment pushes onto the stream being drained at every return, for ever (42_io_commands.md R181). -/
def endlessPushes (s : State) : Bool := s.inp.pushesNeverEnd && s.inp.pushes.isEmpty

/-- No more rounds are run: a fault has halted the block, the stream is empty, or the rounds from here on have no end. -/
def drainStops (k : StreamId) (s : State) : Bool := s.halted || ((trk s k).count == 0 || endlessPushes s)

/-- The drain's loop, at most `n` rounds, up to its end or to the point from which it has none. -/
def drainRounds (k : StreamId) : Nat → State → State
  | 0, s => s
  | n + 1, s => if drainStops k s then s else drainRounds k n (drainOnce k s)

/-- The PUSHes the environment can still make in this tick. -/
def pendingPushes (s : State) : Nat := (s.inp.pushes.map List.length).sum

/-- The rounds of `DrainStream` (42_io_commands.md R181): repeat until the stream is empty, or up to the point from which the
environment pushes for ever. Each round pops one epoch, and up to that point the stream holds no more epochs than it held and
the PUSH lists bring, so that many rounds are enough: Laws/Drain.lean proves the loop equation of R181 (log 11, log 12). -/
def drainStream (k : StreamId) (s : State) : State :=
  drainRounds k ((trk s k).count + pendingPushes s) s

/-- `DrainStream` (42_io_commands.md R181): the state after the loop, once the stream is empty or a fault has halted the block;
a loop that never ends leaves the tick stuck in it (93_implementation_defined.md I23; log 11). -/
def drain (k : StreamId) (s : State) : Host.Outcome State Fault Refusal :=
  if (drainStream k s).halted || (trk (drainStream k s) k).count == 0 then .next (drainStream k s)
  else .fault (.drainNeverEnds k (drainStream k s).trace)

end Sys2Proof.Machine
end

