-- ==== Sys2Proof/Machine/Flags.lean ====
section
/-! DEFINITION. The status and queue registers of the block (10_state.md section 3): the register actions, each of which writes
its register and stands in the trace, and the numbers the spec gives the enumerations. -/

namespace Sys2Proof.Machine

/-- `WriteCstsRdy(v)` (10_state.md R62). -/
def writeCstsRdy (v : Bool) (s : State) : State := { emit (.writeCstsRdy v) s with cstsRdy := v }

/-- `WriteCstsShst(v)` (10_state.md R63). -/
def writeCstsShst (v : BitVec 2) (s : State) : State := { emit (.writeCstsShst v) s with cstsShst := v }

/-- `SetAdminQueue(a, b)` (10_state.md R64). -/
def setAdminQueue (a b : Nat) (s : State) : State := { emit (.setAdminQueue a b) s with adminQ := .armed a b }

/-- `ClearAdminQueue()` (10_state.md R64). -/
def clearAdminQueue (s : State) : State := { emit .clearAdminQueue s with adminQ := .cleared }

/-- `ClearIoQueuePair(p)` (10_state.md R65). -/
def clearIoQueuePair (p : Fin 8) (s : State) : State :=
  { emit (.clearIoQueuePair p) s with ioqValid := s.ioqValid.set p false }

/-- `for p in 0..7 do emit ClearIoQueuePair(p) end` (41_state_controller.md R155, R158). -/
def clearIoQueuePairs (s : State) : State :=
  ([0, 1, 2, 3, 4, 5, 6, 7] : List (Fin 8)).foldl (fun t p => clearIoQueuePair p t) s

/-- `TeardownQueues()` (41_state_controller.md R158), the first two lines of the shutdown teardown as well (R155). -/
def teardownQueues (s : State) : State := clearAdminQueue (clearIoQueuePairs s)

/-- `cache_en <- 0`, "disable write cache" (10_state.md R33): a state write, no action. -/
def disableWriteCache (s : State) : State := { s with cacheEn := false }

/-- The 3-bit number of a lifecycle state (10_state.md R31); no rule depends on it. -/
def ctlStateNumber : CtlState → BitVec 3
  | .idle => 0#3
  | .waitCcEn => 1#3
  | .running => 2#3
  | .shutdown => 3#3
  | .waitReset => 4#3
  | .reset => 5#3

/-- The number of a fault code (60_exceptions.md R230). -/
def faultCodeNumber : FaultCode → Nat
  | .none => 0
  | .badOpcode => 1
  | .lbaLowRange => 2
  | .lbaHighRange => 3
  | .prpMisaligned => 4
  | .prpHighRange => 5
  | .trkBadStream => 6
  | .trkEmpty => 7
  | .trkFull => 8

end Sys2Proof.Machine
end

