-- ==== Sys2Proof/Machine/Controller.lean ====
section
/-! DEFINITION. The Device State Controller (41_state_controller.md): one operation per lifecycle state, and the step that runs
the arm of the current one. -/

namespace Sys2Proof.Machine

/-- IDLE (41_state_controller.md R151): nothing. -/
def idleArm (s : State) : State := s

/-- WAIT_CC_EN, the enable handshake (41_state_controller.md R153). -/
def waitCcEnArm (s : State) : State :=
  if s.inp.ccEn then
    { writeCstsRdy true (setAdminQueue Config.adminArm.1 Config.adminArm.2 s) with
      flushTimerBase := s.inp.timerNow, ctlState := .running }
  else s

/-- The shutdown teardown, in the source's order (41_state_controller.md R155). -/
def shutdownTeardown (s : State) : State :=
  emit (.persistGrownBadBlockTable s.params.bbtBufBase)
    (writeCstsShst 2#2 (writeCstsShst 1#2 (disableWriteCache (teardownQueues s))))

/-- RUNNING, watching for a shutdown notification (41_state_controller.md R154). -/
def runningArm (s : State) : State :=
  if s.inp.ccShn ≠ 0#2 then { shutdownTeardown s with ctlState := .shutdown } else s

/-- SHUTDOWN (41_state_controller.md R156). -/
def shutdownArm (s : State) : State := { s with ctlState := .waitReset }

/-- WAIT_RESET (41_state_controller.md R157). -/
def waitResetArm (s : State) : State :=
  if s.inp.ccEn then s
  else { disableWriteCache (writeCstsRdy false (writeCstsShst 0#2 s)) with ctlState := .idle }

/-- What every RESET visit does before it counts (41_state_controller.md R160). -/
def resetVisit (s : State) : State :=
  disableWriteCache (writeCstsRdy false (writeCstsShst 0#2 (teardownQueues s)))

/-- Counting a RESET visit that stays, with the escalation to a link reset (41_state_controller.md R160). -/
def countResetVisit (s : State) : State :=
  if s.rstCnt + 1 = Config.resetEscalate then { emit .linkResetAsync s with rstCnt := 0 }
  else { s with rstCnt := s.rstCnt + 1 }

/-- RESET (41_state_controller.md R160), with `rf` the `reset_force` sampled at the start of the tick. -/
def resetArm (s : State) : State :=
  if s.inp.resetForce then countResetVisit (resetVisit s)
  else { resetVisit s with rstCnt := 0, ctlState := .idle }

/-- `StateStep()` (41_state_controller.md R150): the arm of the current state, and no other. -/
def stateStep (s : State) : State :=
  match s.ctlState with
  | .idle => idleArm s
  | .waitCcEn => waitCcEnArm s
  | .running => runningArm s
  | .shutdown => shutdownArm s
  | .waitReset => waitResetArm s
  | .reset => resetArm s

end Sys2Proof.Machine
end

