-- ==== Sys2Proof/WellFormed.lean ====
section
/-! DEFINITION. When a command's metadata fits the open widths, and when an instruction is one the block can be given. -/

namespace Sys2Proof

/-- The metadata fits `QID_W`, `SLOT_W` and `SEQ_W` (00_scope.md R16, 10_state.md R46). -/
def CmdTag.fits (p : Params) (t : CmdTag) : Bool :=
  decide (t.qid < 2 ^ p.qidW) && (decide (t.slot < 2 ^ p.slotW) && decide (t.seq < 2 ^ p.seqW))

/-- A well-formed instruction: its metadata fits the widths, and an I/O command has `qid != 0` while an admin command has
`qid = 0` (30_encoding.md R104). Any 32-bit stream is well formed: a stream other than 1 and 2 is a request the tracker
answers with a fault (40_barrier_tracker.md R130, R132, R133). -/
def Instr.wf (p : Params) : Instr → Bool
  | .flush tag _ => tag.fits p && tag.qid != 0
  | .write tag _ => tag.fits p && tag.qid != 0
  | .read tag _ => tag.fits p && tag.qid != 0
  | .admin tag _ => tag.fits p && tag.qid == 0
  | .push _ _ => true
  | .pop _ => true
  | .count _ => true

end Sys2Proof
end

