-- ==== Sys2Proof/Decode.lean ====
section
/-! DEFINITION. Decoding and encoding (30_encoding.md): commands by queue and opcode, tracker-port requests by `trk_op`, and
the host's reading of a word of spec/opcode_table.json. -/

namespace Sys2Proof

/-- What reaches the block to be decoded: a fetched command, or a request at the tracker port. -/
inductive Request where
  | command (c : Command)
  | port (r : PortReq)
  deriving DecidableEq, Repr

/-- Why a request decodes to no instruction. -/
inductive Reject where
  /-- An I/O opcode from 0x03 to 0xFF (30_encoding.md R106): the machine takes the fault `BAD_OPCODE`. -/
  | unsupportedOpcode (op : BitVec 8)
  /-- `trk_op` = 3 (30_encoding.md R108): not an operation, the request is refused. -/
  | notAnOperation
  deriving DecidableEq, Repr

/-- The opcode field `dw[0][7:0]` (30_encoding.md R101, R102). -/
def opcodeOf (d : Dwords) : BitVec 8 := d.dw0.extractLsb' 0 8

/-- The I/O-command view of 16 dwords, at the positions of 30_encoding.md R101. PRESUMED by the spec from NVMe (log 15). -/
def viewOf (d : Dwords) : IoView where
  prp1Lo := d.dw6
  prp1Hi := d.dw7
  prp2Lo := d.dw8
  prp2Hi := d.dw9
  lbaLow := d.dw10
  lbaHigh := d.dw11
  nlb := d.dw12.extractLsb' 0 16
  dw0Rest := d.dw0.extractLsb' 8 24
  dw1 := d.dw1
  dw2 := d.dw2
  dw3 := d.dw3
  dw4 := d.dw4
  dw5 := d.dw5
  dw12Rest := d.dw12.extractLsb' 16 16
  dw13 := d.dw13
  dw14 := d.dw14
  dw15 := d.dw15

/-- Decoding a command: the queue first (30_encoding.md R104), then the opcode (R107). An unsupported opcode is answered as
such, with the opcode. -/
def decodeCommand (c : Command) : Except (BitVec 8) Instr :=
  if c.tag.qid = 0 then .ok (.admin c.tag c.dw)
  else if opcodeOf c.dw = 0x00#8 then .ok (.flush c.tag (viewOf c.dw))
  else if opcodeOf c.dw = 0x01#8 then .ok (.write c.tag (viewOf c.dw))
  else if opcodeOf c.dw = 0x02#8 then .ok (.read c.tag (viewOf c.dw))
  else .error (opcodeOf c.dw)

/-- Decoding a request at the tracker port (30_encoding.md R108); `trk_op` = 3 is no operation. -/
def decodePort (r : PortReq) : Option Instr :=
  if r.op = 0#2 then some (.push r.stream r.epoch)
  else if r.op = 1#2 then some (.pop r.stream)
  else if r.op = 2#2 then some (.count r.stream)
  else none

/-- The decoder, total on every request, rejecting by name. -/
def decode : Request → Except Reject Instr
  | .command c =>
    match decodeCommand c with
    | .ok i => .ok i
    | .error op => .error (.unsupportedOpcode op)
  | .port r =>
    match decodePort r with
    | some i => .ok i
    | none => .error .notAnOperation

/-- The 16 dwords of an I/O command with opcode `op` and view `v` (30_encoding.md R101): the inverse of `opcodeOf` and
`viewOf`. -/
def dwordsOf (op : BitVec 8) (v : IoView) : Dwords where
  dw0 := v.dw0Rest ++ op
  dw1 := v.dw1
  dw2 := v.dw2
  dw3 := v.dw3
  dw4 := v.dw4
  dw5 := v.dw5
  dw6 := v.prp1Lo
  dw7 := v.prp1Hi
  dw8 := v.prp2Lo
  dw9 := v.prp2Hi
  dw10 := v.lbaLow
  dw11 := v.lbaHigh
  dw12 := v.dw12Rest ++ v.nlb
  dw13 := v.dw13
  dw14 := v.dw14
  dw15 := v.dw15

/-- The encoder: the command or the port request that stands for an instruction (30_encoding.md R101, R105, R108). The epoch
lines of a POP or COUNT request, which carry no operand, are 0. -/
def encode : Instr → Request
  | .flush tag v => .command ⟨tag, dwordsOf 0x00#8 v⟩
  | .write tag v => .command ⟨tag, dwordsOf 0x01#8 v⟩
  | .read tag v => .command ⟨tag, dwordsOf 0x02#8 v⟩
  | .admin tag dw => .command ⟨tag, dw⟩
  | .push s e => .port ⟨0#2, s, e⟩
  | .pop s => .port ⟨1#2, s, 0#32⟩
  | .count s => .port ⟨2#2, s, 0#32⟩

/-- Dword `k` of a number that holds the dwords one after another, `dw[0]` in its low 32 bits. -/
def dwordAt (w k : Nat) : Word := BitVec.ofNat 32 (w >>> (32 * k))

/-- The 16 dwords of such a number. -/
def dwordsAt (w : Nat) : Dwords where
  dw0 := dwordAt w 0
  dw1 := dwordAt w 1
  dw2 := dwordAt w 2
  dw3 := dwordAt w 3
  dw4 := dwordAt w 4
  dw5 := dwordAt w 5
  dw6 := dwordAt w 6
  dw7 := dwordAt w 7
  dw8 := dwordAt w 8
  dw9 := dwordAt w 9
  dw10 := dwordAt w 10
  dw11 := dwordAt w 11
  dw12 := dwordAt w 12
  dw13 := dwordAt w 13
  dw14 := dwordAt w 14
  dw15 := dwordAt w 15

/-- The request a word of spec/opcode_table.json stands for, when the table gives the row `nbits` bits: none is a command of
the admin queue, at most 8 is a request at the tracker port (`trk_op` in bits 1..0, the stream from bit 8, the epoch from bit
40), more is the dwords of a command of I/O queue 1, since the table gives the queue id no bits. DESIGN CHOICE (log 14). -/
def tableRequest (nbits w : Nat) : Request :=
  if nbits = 0 then .command ⟨⟨0, 0, 0⟩, dwordsAt w⟩
  else if nbits ≤ 8 then .port ⟨BitVec.ofNat 2 w, BitVec.ofNat 32 (w >>> 8), BitVec.ofNat 32 (w >>> 40)⟩
  else .command ⟨⟨1, 0, 0⟩, dwordsAt w⟩

/-- The instruction the decoder reads from a word of spec/opcode_table.json, `none` where it refuses. -/
def decodeTableWord (nbits w : Nat) : Option Instr :=
  match decode (tableRequest nbits w) with
  | .ok i => some i
  | .error _ => none

end Sys2Proof
end

