-- ==== Sys2Proof/Machine/Operands.lean ====
section
/-! DEFINITION. The operands of READ and WRITE (30_encoding.md R102, 42_io_commands.md R182) and the checks on them (R183 to
R185); the sampling of an input into its width (00_scope.md R22). -/

namespace Sys2Proof.Machine

/-- The alignment predicate `v mod n = 0` (20_memory.md R86). -/
def aligned (v : Word) (n : Nat) : Bool := v.toNat % n == 0

/-- `startLba = (lbaHigh : lbaLow)`, 64 bits (30_encoding.md R102). -/
def startLba (v : IoView) : BitVec 64 := v.lbaHigh ++ v.lbaLow

/-- `nblocks = zext_17(nlb) + 1`, 1 to 65536 logical blocks (30_encoding.md R102). -/
def nblocks (nlb : BitVec 16) : BitVec 17 := nlb.setWidth 17 + 1#17

/-- The 64-bit value of PRP1 or PRP2, `(hi : lo)` (20_memory.md R82). -/
def prpValue (k : PrpNo) (v : IoView) : BitVec 64 :=
  match k with
  | .prp1 => v.prp1Hi ++ v.prp1Lo
  | .prp2 => v.prp2Hi ++ v.prp2Lo

/-- A fault a check would raise. -/
abbrev Trap := FaultCode × FaultInfo

/-- `CheckLba(lo, hi)` (42_io_commands.md R183). -/
def checkLba (p : Params) (lo hi : Word) : Option Trap :=
  if ¬ lo < p.storageCapacityL then some (.lbaLowRange, .word lo)
  else if ¬ (hi = 0#32 ∨ hi < p.storageCapacityH) then some (.lbaHighRange, .word hi)
  else none

/-- `CheckPrp(k, lo, hi, n)` (42_io_commands.md R184). -/
def checkPrp (p : Params) (k : PrpNo) (lo hi : Word) (n : Nat) : Option Trap :=
  if ¬ aligned lo n then some (.prpMisaligned, .prp k lo)
  else if ¬ hi < p.prpHiCeil then some (.prpHighRange, .prp k hi)
  else none

/-- The checks of READ (`n` = 4) and WRITE (`n` = 16) in the order of 42_io_commands.md R185: the first that fails. -/
def checkIo (p : Params) (v : IoView) (n : Nat) : Option Trap :=
  match checkLba p v.lbaLow v.lbaHigh with
  | some t => some t
  | none =>
    match checkPrp p .prp1 v.prp1Lo v.prp1Hi n with
    | some t => some t
    | none => checkPrp p .prp2 v.prp2Lo v.prp2Hi n

/-- An instruction whose operands are checked first: the first failing check takes its fault and nothing is submitted
(42_io_commands.md R185, 60_exceptions.md R232). -/
def checked (t : Option Trap) (s : State) (f : State → State) : State :=
  match t with
  | some (code, info) => raiseFault code info s
  | none => f s

/-- The number of an `opType` (10_state.md R57). -/
def opTypeNumber : OpType → Nat
  | .write => 1
  | .read => 2

/-- The logical blocks a submission covers (10_state.md R57): `nlb + 1`; `none` for an action that is no such submission. -/
def submittedBlocks : Action → Option (BitVec 17)
  | .translateAndSubmit _ _ nlb _ => some (nblocks nlb)
  | _ => none

/-- Metadata on lines of the widths `QID_W`, `SLOT_W`, `SEQ_W` (10_state.md R46; log 10). -/
def clipTag (p : Params) (t : CmdTag) : CmdTag :=
  ⟨t.qid % 2 ^ p.qidW, t.slot % 2 ^ p.slotW, t.seq % 2 ^ p.seqW⟩

/-- A command on lines of those widths. -/
def clipCommand (p : Params) (c : Command) : Command := ⟨clipTag p c.tag, c.dw⟩

/-- An act of the admin handler, a completion's slot on `SLOT_W` lines. -/
def clipAct (p : Params) : HandlerAct → HandlerAct
  | .setIoq q v => .setIoq q v
  | .setCache v => .setCache v
  | .complete slot specific status => .complete (slot % 2 ^ p.slotW) specific status

/-- The draws of a tick as they stand on the ports: every value within the width of its lines (10_state.md section 8.1; log
10). -/
def clipInputs (p : Params) (i : Inputs) : Inputs :=
  { i with
    timerNow := i.timerNow % 2 ^ p.timerW
    arrivals := i.arrivals.map (clipCommand p)
    handler := i.handler.map (clipAct p) }

end Sys2Proof.Machine
end

