-- ==== Sys2Proof/Machine/Control.lean ====
section
/-! DEFINITION. The Control Loop (43_control_loop.md): the tick in its order, the boot, the block reset, the tracker port
between ticks, and the step over the environment's events. The meaning of an instruction is an argument (`run`), which
Machine/Step.lean gives as `exec`. -/

namespace Sys2Proof.Machine

/-- The start of a tick: its draws stand on the ports, the commands the host has queued join the host queue, and the trace and
the command latch are empty (00_scope.md R22, R25; 10_state.md R46). -/
def loadTick (inp : Inputs) (s : State) : State :=
  { s with
    inp := clipInputs s.params inp
    hostq := s.hostq ++ (clipInputs s.params inp).arrivals
    trace := []
    cmd := none }

/-- Step 0, external forcing (43_control_loop.md R212). -/
def force (s : State) : State :=
  if s.inp.resetForce then { s with ctlState := .reset }
  else if s.inp.enableEvt && s.ctlState == .idle then { s with ctlState := .waitCcEn }
  else s

/-- Step 1: `run_bg <- 1` (43_control_loop.md R211). -/
def defaultRunBg (s : State) : State := { s with runBg := true }

/-- The command this tick's poll finds, and the host queue without it (10_state.md R55; log 4). -/
def polled (s : State) : Option (Command × List Command) :=
  match s.inp.fetch with
  | none => none
  | some k =>
    match s.hostq[k]? with
    | none => none
    | some c => some (c, s.hostq.eraseIdx k)

/-- `c <- call FetchCommand()`, and, if a command arrived, `rst_cnt <- 0; cmd <- c` (43_control_loop.md R213). -/
def fetchCommand (s : State) : State :=
  match polled s with
  | none => emit .fetchCommand s
  | some (c, q) => { emit .fetchCommand s with hostq := q, rstCnt := 0, cmd := some c }

/-- `run_bg <- 0` (43_control_loop.md R213). -/
def skipBackground (s : State) : State := { s with runBg := false }

/-- What follows a dispatch that did not fault: an I/O command's requests are handed to the low-level scheduler and background
scheduling is skipped in this tick; an admin command leaves `run_bg` as it is (43_control_loop.md R213). -/
def afterDispatch (c : Command) (s : State) : State :=
  if c.tag.qid = 0 then s
  else andThen (callPipeline .flushSubmissionQueueToLowLevel s) skipBackground

/-- The command latch exists only during the dispatch (10_state.md R46; log 18). -/
def releaseCommand (s : State) : State := { s with cmd := none }

/-- The dispatch of the latched command (43_control_loop.md R213, 42_io_commands.md R190): an unsupported opcode takes the
fault `BAD_OPCODE` (42_io_commands.md R189). -/
def dispatch (run : Instr → State → Host.Outcome State Fault Refusal) (s : State) :
    Host.Outcome State Fault Refusal :=
  match s.cmd with
  | none => .next s
  | some c =>
    match decodeCommand c with
    | .error op => .next (releaseCommand (raiseFault .badOpcode (.word (op.setWidth 32)) s))
    | .ok i => onNext (run i s) fun t => .next (releaseCommand (andThen t (afterDispatch c)))

/-- Step 2, `PollAndDispatch()`, only in RUNNING (43_control_loop.md R213). -/
def pollAndDispatch (run : Instr → State → Host.Outcome State Fault Refusal) (s : State) :
    Host.Outcome State Fault Refusal :=
  if s.ctlState = .running then dispatch run (fetchCommand s) else .next s

/-- Step 4, background scheduling (43_control_loop.md R217). -/
def background (s : State) : State :=
  if s.runBg && (s.inp.dmaPending || (s.inp.nandOutstanding || s.inp.reqBlocked)) then
    andThen (callPipeline .reconcileCompletedDmaRequests s) (callPipeline .scheduleStorageRequests)
  else s

/-- Steps 3 and 4 (43_control_loop.md R210), each skipped once a fault has ended the tick. -/
def finishTick (s : State) : State := andThen (andThen s stateStep) background

/-- Steps 0 and 1 with the draws loaded: the state that step 2 sees (43_control_loop.md R210). -/
def beginTick (inp : Inputs) (s : State) : State := defaultRunBg (force (loadTick inp s))

/-- One tick (43_control_loop.md R210). -/
def tick (run : Instr → State → Host.Outcome State Fault Refusal) (inp : Inputs) (s : State) :
    Host.Outcome State Fault Refusal :=
  onNext (pollAndDispatch run (beginTick inp s)) fun t => .next (finishTick t)

/-- The boot sequence (70_reset_and_hazards.md R261). -/
def boot (s : State) : State := { emit .initFtl { s with trace := [] } with booted := true }

/-- A block reset (70_reset_and_hazards.md R260): every element of the block at its value of 10_state.md R75. The parameters
and the environment (the host's queue, the coming events) are not the block's and stay (log 19). -/
def blockReset (timer : Nat) (s : State) : State :=
  { State.resetOf s.params (timer % 2 ^ s.params.timerW) with
    hostq := s.hostq, script := s.script, drawNo := s.drawNo }

/-- A direct request at the tracker port (30_encoding.md R108): the operation, or the refusal of `trk_op` = 3. It is no tick
and emits no action (log 5). -/
def portStep (run : Instr → State → Host.Outcome State Fault Refusal) (r : PortReq) (s : State) :
    Host.Outcome State Fault Refusal :=
  match decodePort r with
  | none => .refused .badTrkOp
  | some i => run i { s with trace := [] }

/-- A step of a block that has booted and is not halted, and otherwise: a halted block takes none (60_exceptions.md R231), and
one that has not booted boots (70_reset_and_hazards.md R261), which uses up no event. -/
def whenReady (s : State) (go : Host.Outcome State Fault Refusal) : Host.Outcome State Fault Refusal :=
  if s.halted then .fault (.halted s.faultCode s.faultInfo)
  else if s.booted then go
  else .next (boot s)

/-- One step on the environment's next event; past the end of the script, a tick under free draws (log 2). -/
def stepWith (run : Instr → State → Host.Outcome State Fault Refusal) (s : State) :
    Host.Outcome State Fault Refusal :=
  match s.script with
  | [] => whenReady s (tick run (Config.freeInputs s.drawNo) { s with drawNo := s.drawNo + 1 })
  | .tick inp :: rest => whenReady s (tick run inp { s with script := rest })
  | .port r :: rest => whenReady s (portStep run r { s with script := rest })
  | .blockReset timer :: rest => .next (blockReset timer { s with script := rest })

/-- `s` with a request placed where the very next step takes it up. A command: the block is booted, not halted and RUNNING,
and the next event is a quiet tick before which the host queues the command and whose poll returns it. A port request: the
next event is that request (log 3, log 14). -/
def placeRequest (r : Request) (s : State) : State :=
  match r with
  | .command c =>
    { s with
      booted := true
      halted := false
      ctlState := .running
      script := .tick { Inputs.quiet with arrivals := [c], fetch := some s.hostq.length } :: s.script }
  | .port q => { s with booted := true, halted := false, script := .port q :: s.script }

end Sys2Proof.Machine
end

