-- ==== Sys2Proof/Machine/Admin.lean ====
section
/-! DEFINITION. The meaning of ADMIN (43_control_loop.md R214). -/

namespace Sys2Proof.Machine

/-- ADMIN (43_control_loop.md R214): the command is handed whole to the admin handler, which acts on the block as 10_state.md
R73 lets it before it returns. No opcode check, no fault. -/
def execAdmin (tag : CmdTag) (dw : Dwords) (s : State) : Host.Outcome State Fault Refusal :=
  perform s fun s => handlerActs s.inp.handler (emit (.adminCommandHandler ⟨tag, dw⟩) s)

end Sys2Proof.Machine
end

