-- ==== Sys2Proof/Machine/IoCommands.lean ====
section
/-! DEFINITION. The meanings of READ, WRITE and FLUSH (42_io_commands.md section 3). -/

namespace Sys2Proof.Machine

/-- READ (42_io_commands.md R186): the checks with 4-byte PRP alignment, then one submission. -/
def execRead (tag : CmdTag) (view : IoView) (s : State) : Host.Outcome State Fault Refusal :=
  perform s fun s =>
    checked (checkIo s.params view 4) s
      (callPipeline (.translateAndSubmit tag.slot (startLba view) view.nlb .read))

/-- WRITE (42_io_commands.md R187): the checks with 16-byte PRP alignment, then one submission, which in barrier mode carries
the 16 raw dwords. -/
def execWrite (tag : CmdTag) (view : IoView) (s : State) : Host.Outcome State Fault Refusal :=
  perform s fun s =>
    checked (checkIo s.params view 16) s
      (callPipeline
        (if s.params.barrierMode then .translateAndSubmitWriteWithBarrier tag.slot (dwordsOf 0x01#8 view)
         else .translateAndSubmit tag.slot (startLba view) view.nlb .write))

/-- What a FLUSH persists before it completes (42_io_commands.md R180): everything at once, or, in barrier mode, all of stream
1 and then all of stream 2. On a block that a fault has halted the second drain does nothing. -/
def flushPersist (s : State) : Host.Outcome State Fault Refusal :=
  if s.params.barrierMode then onNext (drain .one s) (drain .two)
  else .next (callPipeline .flushAllBufferedWrites s)

/-- FLUSH (42_io_commands.md R180): persist, then post a success completion whatever the collaborator answered (R193). -/
def execFlush (tag : CmdTag) (_view : IoView) (s : State) : Host.Outcome State Fault Refusal :=
  attempt s fun s => onNext (flushPersist s) fun t => .next (andThen t (emit (.postCompletion tag.slot 0 0)))

end Sys2Proof.Machine
end

