-- ==== Sys2Proof/Machine/Tracker.lean ====
section
/-! DEFINITION. The meanings of PUSH, POP and COUNT as requests at the tracker port (40_barrier_tracker.md, 30_encoding.md
R108). -/

namespace Sys2Proof.Machine

/-- PUSH (40_barrier_tracker.md R130). -/
def execPush (stream : Word) (epoch : Epoch) (s : State) : Host.Outcome State Fault Refusal :=
  perform s (trkPush stream epoch)

/-- POP (40_barrier_tracker.md R132); the popped epoch is the port's answer. -/
def execPop (stream : Word) (s : State) : Host.Outcome State Fault Refusal :=
  perform s fun s =>
    match trkPop stream s with
    | (s', some e) => answerPort (.epoch e) s'
    | (s', none) => s'

/-- COUNT (40_barrier_tracker.md R133); the count, on 9 bits, is the port's answer. -/
def execCount (stream : Word) (s : State) : Host.Outcome State Fault Refusal :=
  perform s fun s =>
    match trkCount stream s with
    | (s', some c) => answerPort (.count (BitVec.ofNat 9 c)) s'
    | (s', none) => s'

end Sys2Proof.Machine
end

