-- ==== Sys2Proof/Machine/Dispatch.lean ====
section
/-! DEFINITION. One arm per instruction, each one call of its meaning. -/

namespace Sys2Proof.Machine

/-- The meaning of an instruction (42_io_commands.md R190, 43_control_loop.md R214, 40_barrier_tracker.md). -/
def exec (i : Instr) (s : State) : Host.Outcome State Fault Refusal :=
  match i with
  | .flush tag view => Sys2Proof.Machine.execFlush tag view s
  | .write tag view => Sys2Proof.Machine.execWrite tag view s
  | .read tag view => Sys2Proof.Machine.execRead tag view s
  | .admin tag dw => Sys2Proof.Machine.execAdmin tag dw s
  | .push stream epoch => Sys2Proof.Machine.execPush stream epoch s
  | .pop stream => Sys2Proof.Machine.execPop stream s
  | .count stream => Sys2Proof.Machine.execCount stream s

end Sys2Proof.Machine
end

