-- ==== Sys2Proof/Machine/Step.lean ====
section
/-! DEFINITION. The step of the machine, and the host's placing of an instruction where the next step takes it up. -/

namespace Sys2Proof.Machine

/-- One step: a tick, a boot, a direct tracker-port request or a block reset (Machine/Control.lean). -/
def step (s : State) : Host.Outcome State Fault Refusal := stepWith exec s

/-- `s` with the request of a word of spec/opcode_table.json placed where the next step takes it up (log 14). -/
def State.withFetchWord (s : State) (nbits w : Nat) : State := placeRequest (tableRequest nbits w) s

end Sys2Proof.Machine
end

