-- ==== Sys2Proof/Safety.lean ====
section
/-! DEFINITION. The terms claims are made in: what a storage-pipeline call may change, the contents of a barrier stream, the
invariants of the block, the lifecycle transition table, the traces of several steps, and runs of tracker-port operations. -/

namespace Sys2Proof.Machine

/-! ### Frames -/

/-- Everything but what storage-pipeline calls and tracker operations may change is as it was: the two streams, the fault
state, the trace and the PUSH lists not yet performed (10_state.md R71, R74). One equation covers every field of State. -/
def PipelineFrame (s t : State) : Prop :=
  t = { s with
        trk1 := t.trk1, trk2 := t.trk2, halted := t.halted, faultCode := t.faultCode, faultInfo := t.faultInfo,
        trace := t.trace, inp := { s.inp with pushes := t.inp.pushes } }

/-- No event of a block reset stands first: the next step is a boot, a tick, a port request, or none at all. -/
def NoBlockReset (s : State) : Prop := ∀ timer rest, s.script ≠ .blockReset timer :: rest

/-- The next step from `s` is a tick under the draws `inp`, begun from `v`: the block has booted and is not halted, and the
draws are those of the next event, or, past the end of the script, free (log 2). -/
def TickOn (s : State) (inp : Inputs) (v : State) : Prop :=
  s.halted = false ∧ s.booted = true ∧
    ((∃ rest, s.script = .tick inp :: rest ∧ v = { s with script := rest }) ∨
     (s.script = [] ∧ inp = Config.freeInputs s.drawNo ∧ v = { s with drawNo := s.drawNo + 1 }))

/-- The host queue once a fetch has taken the command at a place out of it; a place past the end takes none (10_state.md R55;
log 4). -/
def afterFetch (q : List Command) : Option Nat → List Command
  | none => q
  | some k => q.eraseIdx k

/-! ### Well-formed operands -/

/-- The LBA words of an I/O command are within the bounds of 42_io_commands.md R183. -/
def LbaInRange (p : Params) (v : IoView) : Prop :=
  v.lbaLow < p.storageCapacityL ∧ (v.lbaHigh = 0#32 ∨ v.lbaHigh < p.storageCapacityH)

/-- A PRP's low half is aligned to `n` bytes and its high half below the ceiling (42_io_commands.md R184). -/
def PrpInRange (p : Params) (lo hi : Word) (n : Nat) : Prop := lo.toNat % n = 0 ∧ hi < p.prpHiCeil

/-! ### Contents of a stream -/

/-- The slot of a stream's `i`-th oldest epoch. -/
def slotOf (b : BarrierStream) (i : Nat) : Nat := (b.head.val + i) % Config.trkCap

/-- The epochs a stream holds, oldest first. -/
def contents (inv : Epoch) (b : BarrierStream) : List Epoch :=
  (List.range b.count).map fun i => b.buf.read inv (slotOf b i)

/-- The flush actions of a list of epochs of one stream. -/
def flushesOf (k : StreamId) (es : List Epoch) : List Action := es.map (.flushBufferedWritesForEpoch k)

/-- The epochs that popping a stream until it is empty returns, oldest first: its contents, or, for a stream of 257 epochs, its
256 slots from the head on and then the sentinel, which the first of those POPs left (40_barrier_tracker.md R132). -/
def poppedFrom (inv : Epoch) (b : BarrierStream) : List Epoch :=
  (List.range b.count).map fun i => if i < Config.trkCap then b.buf.read inv (slotOf b i) else inv

/-- The epochs a list of environment PUSHes puts on stream `k`, in order (10_state.md R71). -/
def epochsFor (k : StreamId) (rs : List PushReq) : List Epoch :=
  (rs.filter fun r => r.stream == streamWord k).map (·.epoch)

/-! ### Invariants -/

/-- The most epochs a stream may count: 256, or 257 under `REFERENCE` (10_state.md R43). -/
def maxCount : CapCheck → Nat
  | .strict => Config.trkCap
  | .reference => Config.trkCap + 1

/-- A stream as 10_state.md R43 and R44 say it is between operations. -/
structure StreamOk (p : Params) (b : BarrierStream) : Prop where
  /-- The buffer is in its canonical form (log 13). -/
  buf_wf : b.buf.wf p.epochInvalid = true
  /-- `count` is within its bound (R43). -/
  count_le : b.count ≤ maxCount p.capCheck
  /-- `tail = (head + count) mod 256` (R43). -/
  tail_eq : b.tail.val = slotOf b b.count
  /-- A slot that holds no pushed and unpopped epoch holds the sentinel (R44). -/
  idle_slot : ∀ a, a < Config.trkCap → (∀ i, i < b.count → slotOf b i ≠ a) → b.buf.read p.epochInvalid a = p.epochInvalid

/-- Both streams are as they should be. -/
def TrackerInv (s : State) : Prop := ∀ k, StreamOk s.params (trk s k)

/-- The status and queue registers agree with the lifecycle state between steps (41_state_controller.md R153 to R160), and
`rst_cnt` is in 0..4 and counts in RESET only (10_state.md R40, 43_control_loop.md R219). -/
structure StatusInv (s : State) : Prop where
  rdy : s.cstsRdy = decide (s.ctlState = .running ∨ s.ctlState = .shutdown ∨ s.ctlState = .waitReset)
  shst : s.cstsShst = if s.ctlState = .shutdown ∨ s.ctlState = .waitReset then 2#2 else 0#2
  adminQ : s.adminQ = if s.ctlState = .running then .armed 1 1 else .cleared
  rstCnt_lt : s.rstCnt < Config.resetEscalate
  rstCnt_zero : s.ctlState ≠ .reset → s.rstCnt = 0

/-- The fault registers record a fault exactly when the block is halted (10_state.md R45). -/
def FaultInv (s : State) : Prop :=
  (s.halted = true ↔ s.faultCode ≠ .none) ∧ (s.halted = false → s.faultInfo = .word 0#32)

/-- Between steps no command is latched (10_state.md R46), every queued command fits the open widths, and so does
`flush_timer_base` (00_scope.md R16). -/
structure WidthInv (s : State) : Prop where
  cmd_none : s.cmd = none
  hostq_fits : ∀ c ∈ s.hostq, c.tag.fits s.params = true
  timer_lt : s.flushTimerBase < 2 ^ s.params.timerW

/-! ### Lifecycle -/

/-- The lifecycle state after the forcing at a tick's start (43_control_loop.md R212). -/
def forcedState (c : CtlState) (inp : Inputs) : CtlState :=
  if inp.resetForce then .reset else if inp.enableEvt ∧ c = .idle then .waitCcEn else c

/-- The lifecycle state after the arm of a state has run (41_state_controller.md R163). -/
def nextState (c : CtlState) (inp : Inputs) : CtlState :=
  match c with
  | .idle => .idle
  | .waitCcEn => if inp.ccEn then .running else .waitCcEn
  | .running => if inp.ccShn = 0#2 then .running else .shutdown
  | .shutdown => .waitReset
  | .waitReset => if inp.ccEn then .waitReset else .idle
  | .reset => if inp.resetForce then .reset else .idle

/-! ### Traces -/

/-- The last value a list of actions writes to `csts_rdy`, or the value before. -/
def lastRdy (v : Bool) (as : List Action) : Bool :=
  as.foldl (fun v a => match a with | .writeCstsRdy w => w | _ => v) v

/-- The last value a list of actions writes to `csts_shst`, or the value before. -/
def lastShst (v : BitVec 2) (as : List Action) : BitVec 2 :=
  as.foldl (fun v a => match a with | .writeCstsShst w => w | _ => v) v

/-- The eight queue-pair clears, in order, and the clear of the admin queue (41_state_controller.md R158). -/
def clearActions : List Action :=
  [.clearIoQueuePair 0, .clearIoQueuePair 1, .clearIoQueuePair 2, .clearIoQueuePair 3, .clearIoQueuePair 4,
   .clearIoQueuePair 5, .clearIoQueuePair 6, .clearIoQueuePair 7, .clearAdminQueue]

/-- The actions of `n` steps, one after another, up to the first step that stops. -/
def runTrace : Nat → State → List Action
  | 0, _ => []
  | n + 1, s =>
    match step s with
    | .next t => t.trace ++ runTrace n t
    | .fault _ => []
    | .refused _ => []

/-- The state after `n` steps, if none of them stops. -/
def runState : Nat → State → Option State
  | 0, s => some s
  | n + 1, s =>
    match step s with
    | .next t => runState n t
    | .fault _ => none
    | .refused _ => none

/-! ### The admin handler's acts -/

/-- The last value a list of handler acts gives queue pair `p`, or the value before (10_state.md R73). -/
def lastIoq (p : Fin 8) (v : Bool) (as : List HandlerAct) : Bool :=
  as.foldl (fun v a => match a with | .setIoq q w => if q = p then w else v | _ => v) v

/-- The last value a list of handler acts gives `cache_en`, or the value before (10_state.md R73). -/
def lastCache (v : Bool) (as : List HandlerAct) : Bool :=
  as.foldl (fun v a => match a with | .setCache w => w | _ => v) v

/-- The completions a list of handler acts posts, in order (10_state.md R73; log 17). -/
def handlerCompletions (as : List HandlerAct) : List Action :=
  as.filterMap fun a => match a with | .complete x y z => some (.handlerCompletion x y z) | _ => none

/-! ### Runs of tracker-port operations -/

/-- A PUSH, a POP or a COUNT at the tracker port. -/
inductive TrkOp where
  | push (k : StreamId) (e : Epoch)
  | pop (k : StreamId)
  | count (k : StreamId)
  deriving DecidableEq, Repr

/-- The instruction of such an operation. -/
def trkInstr : TrkOp → Instr
  | .push k e => .push (streamWord k) e
  | .pop k => .pop (streamWord k)
  | .count k => .count (streamWord k)

/-- The epochs a list of operations pushes onto stream `k`, in order. -/
def pushedOn (k : StreamId) : List TrkOp → List Epoch
  | [] => []
  | .push j e :: ops => if j = k then e :: pushedOn k ops else pushedOn k ops
  | .pop _ :: ops => pushedOn k ops
  | .count _ :: ops => pushedOn k ops

/-- Running such operations: the epochs popped from stream `k`, in order, and the last state; `none` as soon as an operation
does not answer a next state, takes a fault, or leaves more than 256 epochs on stream `k` (40_barrier_tracker.md R134). The
other stream may hold any number. -/
def runTrkOps (k : StreamId) : List TrkOp → State → Option (List Epoch × State)
  | [], s => some ([], s)
  | op :: ops, s =>
    match exec (trkInstr op) s with
    | .next t =>
      if t.halted ∨ (trk t k).count > Config.trkCap then none
      else
        match runTrkOps k ops t with
        | none => none
        | some (es, u) =>
          match op, t.portResult with
          | .pop j, .epoch e => some (if j = k then e :: es else es, u)
          | _, _ => some (es, u)
    | .fault _ => none
    | .refused _ => none

/-- Popping stream `k` `n` times at the tracker port: the epochs returned, in order, and the last state; `none` as soon as a POP
returns no epoch. -/
def popTimes : Nat → StreamId → State → Option (List Epoch × State)
  | 0, _, s => some ([], s)
  | n + 1, k, s =>
    match exec (.pop (streamWord k)) s with
    | .next t =>
      match t.halted, t.portResult with
      | false, .epoch e => (popTimes n k t).map fun r => (e :: r.1, r.2)
      | _, _ => none
    | .fault _ => none
    | .refused _ => none

end Sys2Proof.Machine
end

