-- ==== Sys2Proof/Certificates/Slice0/Obligations.lean ====
section
/-! DEFINITION. The statements about the model, for the provers. -/

open Sys2Proof Sys2Proof.Machine

/-! ### Encoding -/

/-- Decoding an encoded well-formed instruction gives it back, for every row of the opcode table and every operand
(30_encoding.md R101, R104, R105, R108; the places of the fields and the port encoding are the spec's decisions D2, D3 and D28,
and a chip may place a field elsewhere, log 15). -/
def Obligations.DecodeAfterEncode : Prop :=
  ∀ (p : Params) (i : Instr), i.wf p = true → decode (encode i) = .ok i

/-- A command that decodes to an instruction is that instruction's encoding, bit for bit, so nothing a barrier-mode WRITE
passes on is lost; and the instruction is well formed if the command's metadata fits the widths (the places of the fields are
the spec's decisions D2 and D3, log 15). -/
def Obligations.EncodeAfterDecode : Prop :=
  ∀ (c : Command) (i : Instr), decodeCommand c = .ok i →
    encode i = .command c ∧ ∀ p : Params, c.tag.fits p = true → i.wf p = true

/-- The decode function of 30_encoding.md R107, total on every command with `qid != 0`. -/
def Obligations.DecodeFollowsTheOpcode : Prop :=
  ∀ c : Command, c.tag.qid ≠ 0 →
    (c.dw.dw0.toNat % 256 = 0 → decodeCommand c = .ok (.flush c.tag (viewOf c.dw))) ∧
    (c.dw.dw0.toNat % 256 = 1 → decodeCommand c = .ok (.write c.tag (viewOf c.dw))) ∧
    (c.dw.dw0.toNat % 256 = 2 → decodeCommand c = .ok (.read c.tag (viewOf c.dw))) ∧
    (3 ≤ c.dw.dw0.toNat % 256 → decodeCommand c = .error (BitVec.ofNat 8 (c.dw.dw0.toNat % 256)))

/-- Words of the spec decode as it says: the worked encoding of 30_encoding.md R110, the WRITE of vector V19 with its ignored
bits set, a FLUSH of zeros, an admin command, and the three tracker operations. The source fixes none of these layouts: the
dwords and bits of the fields are the spec's decisions D2 and D3, the numbers of the tracker port its decision D28, and a chip
may place a field elsewhere (log 15, unsafe for a statement that names a dword or a bit). -/
def Obligations.SpecWordsDecode : Prop :=
  (∃ v, decodeCommand ⟨⟨1, 5, 0⟩, ⟨0x00000002#32, 0#32, 0#32, 0#32, 0#32, 0#32, 0x00002000#32, 0#32, 0x00003000#32, 0#32,
      0x00001000#32, 0#32, 0x00000009#32, 0#32, 0#32, 0#32⟩⟩ = .ok (.read ⟨1, 5, 0⟩ v) ∧
    startLba v = 0x1000#64 ∧ v.nlb = 9#16 ∧ nblocks v.nlb = 10#17 ∧
    prpValue .prp1 v = 0x2000#64 ∧ prpValue .prp2 v = 0x3000#64) ∧
  (∃ v, decodeCommand ⟨⟨1, 7, 0⟩, ⟨0xFFFFFF01#32, 1#32, 2#32, 3#32, 4#32, 5#32, 0x00004010#32, 0#32, 0#32, 0#32,
      0x00000020#32, 0#32, 0xABCD0000#32, 6#32, 7#32, 8#32⟩⟩ = .ok (.write ⟨1, 7, 0⟩ v) ∧
    startLba v = 0x20#64 ∧ v.nlb = 0#16 ∧ prpValue .prp1 v = 0x4010#64) ∧
  (∃ v, decodeCommand ⟨⟨3, 2, 0⟩, dwordsAt 0⟩ = .ok (.flush ⟨3, 2, 0⟩ v)) ∧
  decodeCommand ⟨⟨0, 1, 0⟩, dwordsAt 0x7F⟩ = .ok (.admin ⟨0, 1, 0⟩ (dwordsAt 0x7F)) ∧
  decodePort ⟨0#2, 1#32, 3#32⟩ = some (.push 1#32 3#32) ∧
  decodePort ⟨1#2, 1#32, 0#32⟩ = some (.pop 1#32) ∧
  decodePort ⟨2#2, 2#32, 0#32⟩ = some (.count 2#32)

/-! ### The step -/

/-- A tick begins with its draws on the ports, the host's commands queued, the forcing and `run_bg` set, and nothing else
changed; once no fault has ended it, it ends with the state controller and then background scheduling (43_control_loop.md, the
tick, and its steps 0, 1, 3 and 4; the forcing is the spec's decisions D5, D7 and D8; the port, queue, trace and latch forms are
the model's, log 2, log 4, log 8 and log 18; wide draws are brought within their widths, log 10). -/
def Obligations.TickFollowsItsSteps : Prop :=
  (∀ (inp : Inputs) (s : State), beginTick inp s = { s with
    ctlState := if inp.resetForce = true then .reset
      else if inp.enableEvt = true ∧ s.ctlState = .idle then .waitCcEn else s.ctlState
    runBg := true
    inp := clipInputs s.params inp
    hostq := s.hostq ++ inp.arrivals.map (clipCommand s.params)
    trace := []
    cmd := none }) ∧
  ∀ s : State, (s.halted = false → finishTick s = background (stateStep s)) ∧ (s.halted = true → finishTick s = s)

/-- A tick in RUNNING whose poll returns a command that decodes to an instruction runs that instruction on the state the poll
leaves. If the instruction has not halted the block and `qid` is not 0, `FlushSubmissionQueueToLowLevel` is called and, unless a
PUSH at its return has halted the block, `run_bg` becomes 0; with `qid` = 0 neither happens. Then the command latch is released
(log 18) and steps 3 and 4 follow (43_control_loop.md, the tick and its step 2; the spec's decisions D25 and D38; that a PUSH at
the return of the call may halt the block is 10_state.md section 8.3 and the spec's decisions D16 and D32, log 20). -/
def Obligations.StepRunsTheFetchedCommand : Prop :=
  ∀ (s v : State) (inp : Inputs) (c : Command) (q : List Command) (i : Instr),
    TickOn s inp v → (beginTick inp v).ctlState = .running → polled (beginTick inp v) = some (c, q) →
    decodeCommand c = .ok i →
      step s = onNext (exec i (fetchCommand (beginTick inp v))) fun u =>
        .next (finishTick
          { (if u.halted = true ∨ c.tag.qid = 0 then u
             else if (callPipeline .flushSubmissionQueueToLowLevel u).halted = true then
               callPipeline .flushSubmissionQueueToLowLevel u
             else { callPipeline .flushSubmissionQueueToLowLevel u with runBg := false }) with cmd := none })

/-- What follows a dispatch that did not fault (43_control_loop.md, step 2; the spec's decisions D25, D38, and D16 and D32 for the
PUSHes). For `qid` other than 0 `FlushSubmissionQueueToLowLevel` is emitted after the instruction's actions and the
environment's PUSHes of its return run; a PUSH that faults ends the tick there, and otherwise `run_bg` is 0, so the tick is the
state controller's step from there on and no more. For `qid` = 0 nothing is handed on, `run_bg` stays 1, and the tick goes on
with the state controller and background scheduling. The command latch is log 18. -/
def Obligations.IoDispatchHandsOver : Prop :=
  ∀ (s v u w : State) (inp : Inputs) (c : Command) (q : List Command) (i : Instr),
    TickOn s inp v → (beginTick inp v).ctlState = .running → polled (beginTick inp v) = some (c, q) →
    decodeCommand c = .ok i → exec i (fetchCommand (beginTick inp v)) = .next u → u.halted = false →
    w = pushAll (u.inp.pushes.headD []) { u with
      trace := u.trace ++ [.flushSubmissionQueueToLowLevel], inp := { u.inp with pushes := u.inp.pushes.tail } } →
    (c.tag.qid ≠ 0 →
      (w.halted = true → step s = .next { w with cmd := none }) ∧
      (w.halted = false → step s = .next (stateStep { w with cmd := none, runBg := false })) ∧
      ∀ t, step s = .next t → (∃ as, t.trace = u.trace ++ .flushSubmissionQueueToLowLevel :: as) ∧
        (t.halted = false → t.runBg = false)) ∧
    (c.tag.qid = 0 →
      step s = .next (background (stateStep { u with cmd := none })) ∧
      ∀ t, step s = .next t → .flushSubmissionQueueToLowLevel ∉ t.trace ∧ t.runBg = true)

/-- A tick that polls nothing, or finds nothing, does steps 3 and 4 only (43_control_loop.md R210). -/
def Obligations.StepWithoutACommand : Prop :=
  ∀ (s v : State) (inp : Inputs), TickOn s inp v →
    ((beginTick inp v).ctlState ≠ .running → step s = .next (finishTick (beginTick inp v))) ∧
    ((beginTick inp v).ctlState = .running → polled (beginTick inp v) = none →
      step s = .next (finishTick (emit .fetchCommand (beginTick inp v))))

/-- A direct request at the tracker port runs its operation between ticks, and `trk_op` = 3 is refused (30_encoding.md R108;
that a request is a step of its own is the model's choice, log 5). -/
def Obligations.StepRunsThePortRequest : Prop :=
  ∀ (s : State) (r : PortReq) (rest : List Event), s.script = .port r :: rest → s.halted = false → s.booted = true →
    (r.op = 3#2 → step s = .refused .badTrkOp) ∧
    (r.op ≠ 3#2 → ∃ i, decodePort r = some i ∧ step s = exec i { s with script := rest, trace := [] })

/-- An I/O command with an opcode from 0x03 to 0xFF halts the block with `BAD_OPCODE` and the opcode, and the poll is all the
tick emits: no request is submitted, no completion posted, nothing handed on (42_io_commands.md section 3, unsupported opcode). That
the recorded info is the opcode extended with zeros to 32 bits is the model's choice of form (log 16). -/
def Obligations.UnsupportedOpcodeHalts : Prop :=
  ∀ (s v : State) (inp : Inputs) (c : Command) (q : List Command),
    TickOn s inp v → (beginTick inp v).ctlState = .running → polled (beginTick inp v) = some (c, q) →
    c.tag.qid ≠ 0 → 3 ≤ c.dw.dw0.toNat % 256 →
      ∃ t, step s = .next t ∧ t.halted = true ∧ t.faultCode = .badOpcode ∧
        t.faultInfo = .word (BitVec.ofNat 32 (c.dw.dw0.toNat % 256)) ∧ t.trace = [.fetchCommand]

/-- What an unsupported opcode leaves unchanged: everything but the fault state, what the poll writes (the host queue, `rst_cnt`,
the trace) and what the tick began with (43_control_loop.md, step 2, and 42_io_commands.md section 3, unsupported opcode). Of the model's choosing are the form of the host
queue (log 4), the bringing of wide draws within their widths (log 10) and the recorded info, the opcode extended with zeros to
32 bits (log 16). -/
def Obligations.UnsupportedOpcodeFrame : Prop :=
  ∀ (s v : State) (inp : Inputs) (c : Command) (q : List Command),
    TickOn s inp v → (beginTick inp v).ctlState = .running → polled (beginTick inp v) = some (c, q) →
    c.tag.qid ≠ 0 → 3 ≤ c.dw.dw0.toNat % 256 →
      step s = .next { beginTick inp v with
        hostq := q, rstCnt := 0, trace := [.fetchCommand], halted := true, faultCode := .badOpcode,
        faultInfo := .word (BitVec.ofNat 32 (c.dw.dw0.toNat % 256)) }

/-- Boot emits `InitFtl()`, no other step does, and a booted block stays booted until a block reset: from a block reset on it
is emitted exactly once (10_state.md R68). -/
def Obligations.InitFtlExactlyOnce : Prop :=
  (∀ s : State, NoBlockReset s → s.halted = false → s.booted = false →
    step s = .next { s with booted := true, trace := [.initFtl] }) ∧
  (∀ s t : State, step s = .next t → .initFtl ∈ t.trace → s.booted = false ∧ t.booted = true) ∧
  (∀ s t : State, NoBlockReset s → step s = .next t → t.booted = true)

/-- A halted block takes no step and runs no instruction, whatever stands next but a block reset (60_exceptions.md, fault
entry; the fault the model answers is its own form of "no step", log 9). -/
def Obligations.HaltedBlockTakesNoStep : Prop :=
  ∀ s : State, s.halted = true →
    (NoBlockReset s → step s = .fault (.halted s.faultCode s.faultInfo)) ∧
    ∀ i : Instr, exec i s = .fault (.halted s.faultCode s.faultInfo)

/-- A block reset leaves the halted state and every other one: the block's state is the reset state, the parameters and the
environment stay (70_reset_and_hazards.md, Reset, and 10_state.md section 9). Of the model's choosing are the event form and what
stays (log 19), the values of the fields section 9 does not name, which are the command latch, `run_bg`, the ports, the port's
answer and the trace (log 7), and that `flush_timer_base`, which section 9 leaves unspecified, takes the event's value (log 6),
brought within `TIMER_W` bits (log 10). -/
def Obligations.BlockResetRestoresTheResetState : Prop :=
  ∀ (s : State) (timer : Nat) (rest : List Event), s.script = .blockReset timer :: rest →
    step s = .next { State.resetOf s.params (timer % 2 ^ s.params.timerW) with
      hostq := s.hostq, script := rest, drawNo := s.drawNo }

/-- The reset values of 10_state.md section 9 (the spec's decisions D21, D22, D13), for every parameter value and every value of
the unspecified `flush_timer_base`; State.reset is one of these states. -/
def Obligations.ResetValues : Prop :=
  (∀ (p : Params) (timer : Nat),
    (State.resetOf p timer).ctlState = .idle ∧ (State.resetOf p timer).cacheEn = false ∧
    (State.resetOf p timer).cstsRdy = false ∧ (State.resetOf p timer).cstsShst = 0#2 ∧
    (State.resetOf p timer).adminQ = .cleared ∧ (∀ q : Fin 8, (State.resetOf p timer).ioqValid[q] = false) ∧
    (State.resetOf p timer).rstCnt = 0 ∧
    (∀ k, (trk (State.resetOf p timer) k).head = 0 ∧ (trk (State.resetOf p timer) k).tail = 0 ∧
      (trk (State.resetOf p timer) k).count = 0 ∧
      ∀ a, (trk (State.resetOf p timer) k).buf.read p.epochInvalid a = p.epochInvalid) ∧
    (State.resetOf p timer).halted = false ∧ (State.resetOf p timer).faultCode = .none ∧
    (State.resetOf p timer).faultInfo = .word 0#32 ∧ (State.resetOf p timer).booted = false) ∧
  ∃ p timer, State.reset = State.resetOf p timer

/-! ### The epoch barrier tracker -/

/-- PUSH (40_barrier_tracker.md R130): `trk_op` 0 encodes it, the command decoder never gives it, and it is what a storage-pipeline
return performs for the pair; the stream check comes first, then the capacity check, then the append; a fault leaves the streams
as they were, and nothing but the one stream changes. -/
def Obligations.PushFollowsItsRule : Prop :=
  ∀ (s : State) (w : Word) (e : Epoch), s.halted = false →
    decodePort ⟨0#2, w, e⟩ = some (.push w e) ∧ (∀ c, decodeCommand c ≠ .ok (.push w e)) ∧
    exec (.push w e) s = .next (pushAll [⟨w, e⟩] s) ∧
    (w ≠ 1#32 → w ≠ 2#32 →
      exec (.push w e) s = .next { s with halted := true, faultCode := .trkBadStream, faultInfo := .word w }) ∧
    ∀ k, w = streamWord k →
      (capacityExceeded s.params.capCheck (trk s k).count = true →
        exec (.push w e) s = .next { s with halted := true, faultCode := .trkFull, faultInfo := .word w }) ∧
      (capacityExceeded s.params.capCheck (trk s k).count = false → (trk s k).buf.wf s.params.epochInvalid = true →
        ∃ t, exec (.push w e) s = .next t ∧ t = setTrk k (trk t k) s ∧ (trk t k).head = (trk s k).head ∧
          (trk t k).tail.val = ((trk s k).tail.val + 1) % 256 ∧ (trk t k).count = (trk s k).count + 1 ∧
          ∀ a, (trk t k).buf.read s.params.epochInvalid a =
            if a = (trk s k).tail.val then e else (trk s k).buf.read s.params.epochInvalid a)

/-- The PUSHes of one storage-pipeline return are performed one after another, each as the instruction PUSH, and one that faults
is the last (10_state.md, section 8.3; the spec's decisions D16 and D32). -/
def Obligations.PushesAtAReturnRunInOrder : Prop :=
  ∀ (s : State) (r : PushReq) (rs : List PushReq), s.halted = false →
    pushAll [] s = s ∧
    ∃ t, exec (.push r.stream r.epoch) s = .next t ∧ pushAll (r :: rs) s = if t.halted then t else pushAll rs t

/-- POP (40_barrier_tracker.md, POP, with the spec's decisions D13 and D14): the stream check, the empty check, then the oldest
epoch is the port's answer and its slot holds the sentinel; nothing but the one stream and the port's answer changes. -/
def Obligations.PopFollowsItsRule : Prop :=
  ∀ (s : State) (w : Word), s.halted = false →
    (w ≠ 1#32 → w ≠ 2#32 →
      exec (.pop w) s = .next { s with halted := true, faultCode := .trkBadStream, faultInfo := .word w }) ∧
    ∀ k, w = streamWord k →
      ((trk s k).count = 0 →
        exec (.pop w) s = .next { s with halted := true, faultCode := .trkEmpty, faultInfo := .word w }) ∧
      ((trk s k).count ≠ 0 → (trk s k).buf.wf s.params.epochInvalid = true →
        ∃ t, exec (.pop w) s = .next t ∧
          t = { setTrk k (trk t k) s with
                portResult := .epoch ((trk s k).buf.read s.params.epochInvalid (trk s k).head.val) } ∧
          (trk t k).head.val = ((trk s k).head.val + 1) % 256 ∧ (trk t k).tail = (trk s k).tail ∧
          (trk t k).count = (trk s k).count - 1 ∧
          ∀ a, (trk t k).buf.read s.params.epochInvalid a =
            if a = (trk s k).head.val then s.params.epochInvalid else (trk s k).buf.read s.params.epochInvalid a)

/-- COUNT (40_barrier_tracker.md, COUNT, with the spec's decision D14): the stream check, then the fill level, on 9 bits, is the
port's answer and nothing else changes. -/
def Obligations.CountObserves : Prop :=
  ∀ (s : State) (w : Word), s.halted = false →
    (w ≠ 1#32 → w ≠ 2#32 →
      exec (.count w) s = .next { s with halted := true, faultCode := .trkBadStream, faultInfo := .word w }) ∧
    ∀ k, w = streamWord k →
      exec (.count w) s = .next { s with portResult := .count (BitVec.ofNat 9 (trk s k).count) }

/-- The capacity boundary under both checks (40_barrier_tracker.md, the capacity check of PUSH; the spec's decision D12): on a
stream of fewer than 256 epochs a PUSH is accepted under both, stores the epoch at the tail and nothing else, and adds one to
the count; on a stream of 256 epochs a 257th PUSH faults under STRICT; under REFERENCE it is accepted, overwrites the oldest
epoch's slot and makes the count 257, and on a stream of 257 the next PUSH faults. -/
def Obligations.CapacityBoundary : Prop :=
  ∀ (s : State) (k : StreamId) (e : Epoch), s.halted = false → StreamOk s.params (trk s k) →
    ((trk s k).count < 256 →
      ∃ t, exec (.push (streamWord k) e) s = .next t ∧ t = setTrk k (trk t k) s ∧ (trk t k).head = (trk s k).head ∧
        (trk t k).tail.val = ((trk s k).tail.val + 1) % 256 ∧ (trk t k).count = (trk s k).count + 1 ∧
        (trk t k).buf.read s.params.epochInvalid (trk s k).tail.val = e ∧
        ∀ a, a ≠ (trk s k).tail.val →
          (trk t k).buf.read s.params.epochInvalid a = (trk s k).buf.read s.params.epochInvalid a) ∧
    (s.params.capCheck = .strict → (trk s k).count = 256 →
      exec (.push (streamWord k) e) s =
        .next { s with halted := true, faultCode := .trkFull, faultInfo := .word (streamWord k) }) ∧
    (s.params.capCheck = .reference → (trk s k).count = 256 →
      ∃ t, exec (.push (streamWord k) e) s = .next t ∧ t.halted = false ∧ (trk t k).count = 257 ∧
        (trk t k).buf.read s.params.epochInvalid (trk s k).head.val = e ∧
        ∀ a, a ≠ (trk s k).head.val →
          (trk t k).buf.read s.params.epochInvalid a = (trk s k).buf.read s.params.epochInvalid a) ∧
    (s.params.capCheck = .reference → (trk s k).count = 257 →
      exec (.push (streamWord k) e) s =
        .next { s with halted := true, faultCode := .trkFull, faultInfo := .word (streamWord k) })

/-- What POP returns after an overflow under REFERENCE (40_barrier_tracker.md, POP; the spec's decisions D12 and D13): from a
stream of 257 epochs the first 256 POPs return the 256 slots from `head` on, the overwriting epoch first, the 257th returns the
sentinel, and the stream is then empty. -/
def Obligations.OverflowedStreamPops : Prop :=
  ∀ (s : State) (k : StreamId), s.halted = false → s.params.capCheck = .reference → StreamOk s.params (trk s k) →
    (trk s k).count = 257 →
      ∃ t, popTimes 257 k s = some
          ((List.range 256).map (fun i => (trk s k).buf.read s.params.epochInvalid (((trk s k).head.val + i) % 256)) ++
            [s.params.epochInvalid], t) ∧
        t.halted = false ∧ (trk t k).count = 0

/-- No operation on one stream writes the other, nor reads it: with the other stream replaced by anything, it does the same
(40_barrier_tracker.md R135). -/
def Obligations.StreamsAreIndependent : Prop :=
  ∀ (k : StreamId) (w : Word) (e : Epoch) (i : Instr), w ≠ streamWord k → (i = .push w e ∨ i = .pop w ∨ i = .count w) →
    ∀ (s t : State) (b : BarrierStream), exec i s = .next t →
      trk t k = trk s k ∧ exec i (setTrk k b s) = .next (setTrk k b t)

/-- The FIFO property (40_barrier_tracker.md, FIFO property, which the spec derives): whatever PUSHes, POPs and COUNTs of both
streams are interleaved, without a fault and with never more than 256 epochs on the stream in question, the epochs popped from
it followed by the epochs it still holds are the epochs it held followed by the epochs pushed onto it, in order. The other
stream may hold anything. -/
def Obligations.PopsAreInPushOrder : Prop :=
  ∀ (k : StreamId) (ops : List TrkOp) (s t : State) (es : List Epoch),
    StreamOk s.params (trk s k) → (trk s k).count ≤ 256 → runTrkOps k ops s = some (es, t) →
      contents s.params.epochInvalid (trk s k) ++ pushedOn k ops = es ++ contents s.params.epochInvalid (trk t k)

/-- Every step keeps the tracker invariant of 10_state.md, section 5: the canonical form, the bound of `count`, the place of
`tail`, and the sentinel in every slot that holds no epoch. -/
def Obligations.StepKeepsTheTrackerInvariant : Prop :=
  ∀ s t : State, TrackerInv s → step s = .next t → TrackerInv t

/-- The invariants hold at State.reset and at every reset state: the tracker's, the status registers', the fault registers'
and the widths' (the reset values are the spec's decision D21; the parameters and `flush_timer_base` of State.reset are the
model's choices, log 1 and log 6). -/
def Obligations.ResetMeetsTheInvariants : Prop :=
  (∀ (p : Params) (timer : Nat), TrackerInv (State.resetOf p timer) ∧ StatusInv (State.resetOf p timer) ∧
    FaultInv (State.resetOf p timer) ∧ (timer < 2 ^ p.timerW → WidthInv (State.resetOf p timer))) ∧
  TrackerInv State.reset ∧ StatusInv State.reset ∧ FaultInv State.reset ∧ WidthInv State.reset

/-! ### READ, WRITE, FLUSH, ADMIN -/

/-- The LBA check of READ and WRITE, on a command whose PRPs pass (42_io_commands.md R183): a low word that is not below
`STORAGE_CAPACITY_L` halts the block; if it is below, a high word that is neither 0 nor below `STORAGE_CAPACITY_H` does; and a
start LBA within the bounds never does, whatever NLB is. -/
def Obligations.LbaOutOfRangeHalts : Prop :=
  ∀ (s : State) (tag : CmdTag) (v : IoView) (i : Instr) (n : Nat), s.halted = false →
    (i = .read tag v ∧ n = 4 ∨ i = .write tag v ∧ n = 16) →
    PrpInRange s.params v.prp1Lo v.prp1Hi n → PrpInRange s.params v.prp2Lo v.prp2Hi n →
    (¬ v.lbaLow < s.params.storageCapacityL →
      exec i s = .next { s with halted := true, faultCode := .lbaLowRange, faultInfo := .word v.lbaLow }) ∧
    (v.lbaLow < s.params.storageCapacityL → ¬ (v.lbaHigh = 0#32 ∨ v.lbaHigh < s.params.storageCapacityH) →
      exec i s = .next { s with halted := true, faultCode := .lbaHighRange, faultInfo := .word v.lbaHigh }) ∧
    (v.lbaLow < s.params.storageCapacityL → (v.lbaHigh = 0#32 ∨ v.lbaHigh < s.params.storageCapacityH) →
      ∀ t, exec i s = .next t → (t.faultCode = .lbaLowRange ∨ t.faultCode = .lbaHighRange) → t.faultCode = s.faultCode)

/-- The PRP checks of READ (4-byte) and WRITE (16-byte), on a command whose LBA and other PRP pass (42_io_commands.md R184): a
misaligned low half halts the block; if it is aligned, a high half that is not below `PRP_HI_CEIL` does; PRPs that pass never
do, and a PRP of value 0 passes when `PRP_HI_CEIL` is above 0. -/
def Obligations.PrpViolationHalts : Prop :=
  ∀ (s : State) (tag : CmdTag) (v : IoView) (i : Instr) (n : Nat), s.halted = false →
    (i = .read tag v ∧ n = 4 ∨ i = .write tag v ∧ n = 16) → LbaInRange s.params v →
    (PrpInRange s.params v.prp2Lo v.prp2Hi n → v.prp1Lo.toNat % n ≠ 0 →
      exec i s = .next { s with halted := true, faultCode := .prpMisaligned, faultInfo := .prp .prp1 v.prp1Lo }) ∧
    (PrpInRange s.params v.prp2Lo v.prp2Hi n → v.prp1Lo.toNat % n = 0 → ¬ v.prp1Hi < s.params.prpHiCeil →
      exec i s = .next { s with halted := true, faultCode := .prpHighRange, faultInfo := .prp .prp1 v.prp1Hi }) ∧
    (PrpInRange s.params v.prp1Lo v.prp1Hi n → v.prp2Lo.toNat % n ≠ 0 →
      exec i s = .next { s with halted := true, faultCode := .prpMisaligned, faultInfo := .prp .prp2 v.prp2Lo }) ∧
    (PrpInRange s.params v.prp1Lo v.prp1Hi n → v.prp2Lo.toNat % n = 0 → ¬ v.prp2Hi < s.params.prpHiCeil →
      exec i s = .next { s with halted := true, faultCode := .prpHighRange, faultInfo := .prp .prp2 v.prp2Hi }) ∧
    (PrpInRange s.params v.prp1Lo v.prp1Hi n → PrpInRange s.params v.prp2Lo v.prp2Hi n →
      ∀ t, exec i s = .next t → (t.faultCode = .prpMisaligned ∨ t.faultCode = .prpHighRange) → t.faultCode = s.faultCode) ∧
    (0#32 < s.params.prpHiCeil → PrpInRange s.params 0#32 0#32 n)

/-- The order of the checks of READ and WRITE, whatever later fields hold (42_io_commands.md, the check order, which is the spec's
decision D11): low LBA word, high LBA word, PRP1's alignment, PRP1's ceiling; PRP2 is checked only when PRP1 passes. -/
def Obligations.FirstFailingCheckWins : Prop :=
  ∀ (s : State) (tag : CmdTag) (v : IoView) (i : Instr) (n : Nat), s.halted = false →
    (i = .read tag v ∧ n = 4 ∨ i = .write tag v ∧ n = 16) →
    (¬ v.lbaLow < s.params.storageCapacityL →
      exec i s = .next { s with halted := true, faultCode := .lbaLowRange, faultInfo := .word v.lbaLow }) ∧
    (v.lbaLow < s.params.storageCapacityL → ¬ (v.lbaHigh = 0#32 ∨ v.lbaHigh < s.params.storageCapacityH) →
      exec i s = .next { s with halted := true, faultCode := .lbaHighRange, faultInfo := .word v.lbaHigh }) ∧
    (LbaInRange s.params v → v.prp1Lo.toNat % n ≠ 0 →
      exec i s = .next { s with halted := true, faultCode := .prpMisaligned, faultInfo := .prp .prp1 v.prp1Lo }) ∧
    (LbaInRange s.params v → v.prp1Lo.toNat % n = 0 → ¬ v.prp1Hi < s.params.prpHiCeil →
      exec i s = .next { s with halted := true, faultCode := .prpHighRange, faultInfo := .prp .prp1 v.prp1Hi })

/-- A READ that passes its checks makes one submission, of NLB + 1 blocks at the 64-bit start LBA, and the PUSHes the
environment performs at its return; nothing else changes (42_io_commands.md, READ; that the raw NLB is passed is the spec's
decision D17; the PUSHes at the return are 10_state.md section 8.3 and the spec's decision D16, log 20). -/
def Obligations.ReadSubmitsOnce : Prop :=
  ∀ (s : State) (tag : CmdTag) (v : IoView), s.halted = false → LbaInRange s.params v →
    PrpInRange s.params v.prp1Lo v.prp1Hi 4 → PrpInRange s.params v.prp2Lo v.prp2Hi 4 →
    (s.inp.pushes = [] →
      exec (.read tag v) s = .next { s with
        trace := s.trace ++ [.translateAndSubmit tag.slot (v.lbaHigh ++ v.lbaLow) v.nlb .read] }) ∧
    (∀ l ls, s.inp.pushes = l :: ls →
      exec (.read tag v) s = .next (pushAll l { s with
        trace := s.trace ++ [.translateAndSubmit tag.slot (v.lbaHigh ++ v.lbaLow) v.nlb .read]
        inp := { s.inp with pushes := ls } })) ∧
    (submittedBlocks (.translateAndSubmit tag.slot (v.lbaHigh ++ v.lbaLow) v.nlb .read)).map BitVec.toNat =
      some (v.nlb.toNat + 1)

/-- A WRITE that passes its checks makes one submission: the decoded one without barrier support, the slot and the 16 raw dwords
with it; then the environment's PUSHes, and nothing else changes (42_io_commands.md, WRITE; the spec's decision D17; the PUSHes
at the return are 10_state.md section 8.3 and the spec's decision D16, log 20). -/
def Obligations.WriteSubmitsOnce : Prop :=
  ∀ (s : State) (tag : CmdTag) (v : IoView) (a : Action), s.halted = false → LbaInRange s.params v →
    PrpInRange s.params v.prp1Lo v.prp1Hi 16 → PrpInRange s.params v.prp2Lo v.prp2Hi 16 →
    (s.params.barrierMode = false → a = .translateAndSubmit tag.slot (v.lbaHigh ++ v.lbaLow) v.nlb .write) →
    (s.params.barrierMode = true →
      ∃ dw, encode (.write tag v) = .command ⟨tag, dw⟩ ∧ a = .translateAndSubmitWriteWithBarrier tag.slot dw) →
    (s.inp.pushes = [] → exec (.write tag v) s = .next { s with trace := s.trace ++ [a] }) ∧
    (∀ l ls, s.inp.pushes = l :: ls →
      exec (.write tag v) s = .next (pushAll l { s with
        trace := s.trace ++ [a], inp := { s.inp with pushes := ls } }))

/-- What READ, WRITE and FLUSH leave unchanged, in every mode and whatever the environment pushes: everything but the two
streams, the fault state, the trace, which only grows, and the PUSH lists still to come (10_state.md, section 8.3; the spec's
decision D31 says no collaborator changes anything else). -/
def Obligations.IoCommandFrame : Prop :=
  ∀ (s t : State) (tag : CmdTag) (v : IoView) (i : Instr), (i = .read tag v ∨ i = .write tag v ∨ i = .flush tag v) →
    exec i s = .next t → PipelineFrame s t ∧ ∃ as, t.trace = s.trace ++ as

/-- The bits the block does not read have no effect (30_encoding.md, section 1; the spec's decision D25): a READ, a non-barrier
WRITE and a FLUSH depend on the slot and the fields their rules name, not on the queue id, the sequence number or any other bit.
Which dwords and bits these are is the spec's decision D2 (log 15). -/
def Obligations.IgnoredBitsHaveNoEffect : Prop :=
  ∀ (s : State) (slot qid qid' seq seq' : Nat) (v w : IoView),
    exec (.flush ⟨qid, slot, seq⟩ v) s = exec (.flush ⟨qid', slot, seq'⟩ w) s ∧
    (v.prp1Lo = w.prp1Lo → v.prp1Hi = w.prp1Hi → v.prp2Lo = w.prp2Lo → v.prp2Hi = w.prp2Hi → v.lbaLow = w.lbaLow →
      v.lbaHigh = w.lbaHigh → v.nlb = w.nlb →
        exec (.read ⟨qid, slot, seq⟩ v) s = exec (.read ⟨qid', slot, seq'⟩ w) s ∧
        (s.params.barrierMode = false →
          exec (.write ⟨qid, slot, seq⟩ v) s = exec (.write ⟨qid', slot, seq'⟩ w) s))

/-- FLUSH without barrier support (42_io_commands.md, FLUSH, and 20_memory.md, section 5): everything is persisted, the
environment's PUSHes are performed, and then a success completion is posted, unless a PUSH has halted the block (the PUSHes
between the persisting and the completion are 10_state.md section 8.3 and the spec's decisions D16 and D32, log 20). -/
def Obligations.FlushWithoutBarrier : Prop :=
  ∀ (s : State) (tag : CmdTag) (v : IoView), s.halted = false → s.params.barrierMode = false →
    (s.inp.pushes = [] →
      exec (.flush tag v) s = .next { s with
        trace := s.trace ++ [.flushAllBufferedWrites, .postCompletion tag.slot 0 0] }) ∧
    (∀ l ls u, s.inp.pushes = l :: ls →
      u = pushAll l { s with trace := s.trace ++ [.flushAllBufferedWrites], inp := { s.inp with pushes := ls } } →
      exec (.flush tag v) s =
        .next (if u.halted then u else { u with trace := u.trace ++ [.postCompletion tag.slot 0 0] }))

/-- The drain of one stream is the loop of 42_io_commands.md (the drain of a stream): while the stream is not empty and no fault
has ended the tick, its oldest epoch is popped, the flush of that epoch is emitted, the environment's PUSHes of the flush's
return run, and the loop goes on from there, so an epoch pushed on the drained stream is drained by the same loop. Its rounds
stop with the stream empty, with the block halted by a PUSH, or at the point from which the environment pushes for ever (how
the environment says so is the model's choice, log 11). It vacates no slot of the other stream, whose head stays and whose count
never falls. The PUSHes are the spec's decisions D16 and D32. -/
def Obligations.DrainFollowsItsLoop : Prop :=
  ∀ (k : StreamId) (s u : State),
    (s.halted = true ∨ (trk s k).count = 0 ∨ (s.inp.pushes = [] ∧ s.inp.pushesNeverEnd = true) → drainStream k s = s) ∧
    (s.halted = false → (trk s k).count ≠ 0 → (s.inp.pushesNeverEnd = false ∨ s.inp.pushes ≠ []) →
      u = setTrk k { (trk s k) with
          buf := (trk s k).buf.write s.params.epochInvalid (trk s k).head.val s.params.epochInvalid
          head := (trk s k).head + 1
          count := (trk s k).count - 1 } s →
      drainStream k s = drainStream k (pushAll (s.inp.pushes.headD []) { u with
        trace := s.trace ++
          [.flushBufferedWritesForEpoch k ((trk s k).buf.read s.params.epochInvalid (trk s k).head.val)]
        inp := { s.inp with pushes := s.inp.pushes.tail } })) ∧
    ((drainStream k s).halted = true ∨ (trk (drainStream k s) k).count = 0 ∨
      ((drainStream k s).inp.pushes = [] ∧ s.inp.pushesNeverEnd = true)) ∧
    ∀ j, j ≠ k → (trk (drainStream k s) j).head = (trk s j).head ∧ (trk s j).count ≤ (trk (drainStream k s) j).count

/-- Which epochs a drain flushes and what it leaves, whatever the environment pushes meanwhile, under STRICT (42_io_commands.md,
the drain of a stream; the spec's decisions D16 and D32): if it ends with the stream empty and the block not halted, the epochs
flushed are those the stream held and then those pushed on it at the returns taken, in order; those pushed on the other stream
stay there, after what it held. -/
def Obligations.DrainFlushesWhatIsPushed : Prop :=
  ∀ (k : StreamId) (s : State), s.params.capCheck = .strict → s.halted = false → TrackerInv s →
    (drainStream k s).halted = false → (trk (drainStream k s) k).count = 0 →
      ∃ taken : List (List PushReq), s.inp.pushes = taken ++ (drainStream k s).inp.pushes ∧
        (drainStream k s).trace = s.trace ++
          flushesOf k (contents s.params.epochInvalid (trk s k) ++ epochsFor k taken.flatten) ∧
        contents s.params.epochInvalid (trk (drainStream k s) k) = [] ∧
        ∀ j, j ≠ k → contents s.params.epochInvalid (trk (drainStream k s) j) =
          contents s.params.epochInvalid (trk s j) ++ epochsFor j taken.flatten

/-- FLUSH with barrier support, whatever the environment pushes meanwhile (20_memory.md, section 5, and 42_io_commands.md, FLUSH;
the PUSHes are the spec's decisions D16 and D32): it is the drain of stream 1, then the drain of stream 2, then the completion,
each left out once a PUSH has halted the block. Under the premise the spec asks for, that the environment does not push for
ever (70_reset_and_hazards.md section 2; its form is log 11), it answers a next state. In every next state, every flush of stream
1 stands before every flush of stream 2; unless a PUSH has halted the block, one success completion follows the last of them
and stream 2 is empty; if one has, there is no completion. What each drain does is DrainFollowsItsLoop and
DrainFlushesWhatIsPushed; a drain that never ends is EndlessDrainIsStuck. -/
def Obligations.BarrierFlushDrainsInOrder : Prop :=
  ∀ (s u₁ u₂ : State) (tag : CmdTag) (v : IoView), s.halted = false → s.params.barrierMode = true →
    u₁ = drainStream .one s → u₂ = drainStream .two u₁ →
    (u₁.halted = true → exec (.flush tag v) s = .next u₁) ∧
    (u₁.halted = false → u₁.trk1.count = 0 →
      (u₂.halted = true → exec (.flush tag v) s = .next u₂) ∧
      (u₂.halted = false → u₂.trk2.count = 0 →
        exec (.flush tag v) s = .next { u₂ with trace := u₂.trace ++ [.postCompletion tag.slot 0 0] })) ∧
    (s.inp.pushesNeverEnd = false → ∃ t, exec (.flush tag v) s = .next t) ∧
    ∀ t, exec (.flush tag v) s = .next t → ∃ es₁ es₂,
      (t.halted = false → t.trace = s.trace ++ flushesOf .one es₁ ++ flushesOf .two es₂ ++ [.postCompletion tag.slot 0 0] ∧
        t.trk2.count = 0) ∧
      (t.halted = true → t.trace = s.trace ++ flushesOf .one es₁ ++ flushesOf .two es₂)

/-- A barrier drain that never ends leaves the tick stuck in it (42_io_commands.md, the drain of a stream;
93_implementation_defined.md, table, I23; the fault `drainNeverEnds` is the model's form of it, log 11): FLUSH stops if the rounds
of a drain leave its stream not empty on a block that is not halted, and then so does the tick that runs it. It stops only
where the environment pushes for ever; what it has emitted by then is flushes, of stream 1 only if it is stuck in stream 1,
and no completion. -/
def Obligations.EndlessDrainIsStuck : Prop :=
  ∀ (s u₁ u₂ : State) (tag : CmdTag) (v : IoView), s.halted = false → s.params.barrierMode = true →
    u₁ = drainStream .one s → u₂ = drainStream .two u₁ →
    (u₁.halted = false → u₁.trk1.count ≠ 0 → exec (.flush tag v) s = .fault (.drainNeverEnds .one u₁.trace)) ∧
    (u₁.halted = false → u₁.trk1.count = 0 → u₂.halted = false → u₂.trk2.count ≠ 0 →
      exec (.flush tag v) s = .fault (.drainNeverEnds .two u₂.trace)) ∧
    (∀ r, exec (.flush tag v) s = .fault r → s.inp.pushesNeverEnd = true ∧
      ∃ k es₁ es₂, r = .drainNeverEnds k (s.trace ++ flushesOf .one es₁ ++ flushesOf .two es₂) ∧ (k = .one → es₂ = [])) ∧
    ∀ (s₀ w : State) (inp : Inputs) (c : Command) (q : List Command) (r : Fault),
      TickOn s₀ inp w → (beginTick inp w).ctlState = .running → polled (beginTick inp w) = some (c, q) →
      decodeCommand c = .ok (.flush tag v) → s = fetchCommand (beginTick inp w) →
      exec (.flush tag v) s = .fault r → step s₀ = .fault r

/-- An environment that pushes an epoch onto the drained stream at every return keeps the drain from ending (42_io_commands.md,
the drain of a stream; 70_reset_and_hazards.md section 2): for every `n`, after `n` such returns `n` epochs have been flushed,
no fault has been taken, and the stream holds as many epochs as at the start. This is why a drain from which on the environment
pushes for ever, which the model has as one bit (log 11), is stuck. -/
def Obligations.PushingAtEveryReturnKeepsTheDrainGoing : Prop :=
  ∀ (n : Nat) (k : StreamId) (e : Epoch) (s t : State), s.halted = false → (trk s k).count ≠ 0 →
    (trk s k).count ≤ maxCount s.params.capCheck →
    t = drainStream k { s with
      inp := { s.inp with pushes := List.replicate n [⟨streamWord k, e⟩], pushesNeverEnd := true } } →
      t.halted = false ∧ (trk t k).count = (trk s k).count ∧ t.inp.pushes = [] ∧
        ∃ es, es.length = n ∧ t.trace = s.trace ++ flushesOf k es

/-- FLUSH with barrier support and no PUSH meanwhile (neither listed nor for ever, log 11): exactly the epochs that popping the two
streams until they are empty returns are flushed, all of stream 1 and then all of stream 2, then the completion; both streams
are empty, their buffers hold the sentinel only, and nothing else changes (42_io_commands.md, FLUSH and the drain of a stream;
20_memory.md, section 5). On a stream of at most 256 epochs these are its contents, oldest first; on one overflowed to 257 under
REFERENCE the last is the sentinel, which a POP leaves in the slot it vacates (the spec's decisions D12 and D13). -/
def Obligations.BarrierFlushFlushesTheContents : Prop :=
  (∀ (s : State) (tag : CmdTag) (v : IoView), s.halted = false → s.params.barrierMode = true → s.inp.pushes = [] →
    s.inp.pushesNeverEnd = false → TrackerInv s →
      exec (.flush tag v) s = .next { s with
        trk1 := ⟨[], s.trk1.tail, s.trk1.tail, 0⟩
        trk2 := ⟨[], s.trk2.tail, s.trk2.tail, 0⟩
        trace := s.trace ++ flushesOf .one (poppedFrom s.params.epochInvalid s.trk1) ++
          flushesOf .two (poppedFrom s.params.epochInvalid s.trk2) ++ [.postCompletion tag.slot 0 0] }) ∧
  ∀ (inv : Epoch) (b : BarrierStream),
    (b.count ≤ 256 → poppedFrom inv b = contents inv b) ∧
    (b.count = 257 → poppedFrom inv b = (List.range 256).map (fun i => b.buf.read inv ((b.head.val + i) % 256)) ++ [inv])

/-- ADMIN hands the command whole to the admin handler, with no check and no fault, and the handler's acts then take effect: each
`ioq_valid` bit and `cache_en` hold the last value an act gave them, or what they held, its completions follow in order, and
nothing else changes (43_control_loop.md, ADMIN; 10_state.md, section 8.3; the handler's limits are the spec's decision D31;
that its acts are a finite list, done in order, and that its completions have an action name of their own, is the model's
choice, log 17). -/
def Obligations.AdminForwardsTheCommand : Prop :=
  ∀ (s : State) (tag : CmdTag) (dw : Dwords), s.halted = false →
    exec (.admin tag dw) s = .next { s with
      ioqValid := Vector.ofFn fun p => lastIoq p s.ioqValid[p] s.inp.handler
      cacheEn := lastCache s.cacheEn s.inp.handler
      trace := s.trace ++ .adminCommandHandler ⟨tag, dw⟩ :: handlerCompletions s.inp.handler }

/-! ### The device state controller -/

/-- The enable handshake (41_state_controller.md R153): with `cc_en` set, the admin queue is armed, the ready bit set, the timer
baseline recorded and RUNNING entered, and nothing else changes; without it nothing changes; and WAIT_CC_EN is entered from
IDLE only. -/
def Obligations.EnableHandshake : Prop :=
  (∀ s : State, s.ctlState = .waitCcEn →
    (s.inp.ccEn = true → stateStep s = { s with
      adminQ := .armed 1 1, cstsRdy := true, flushTimerBase := s.inp.timerNow, ctlState := .running
      trace := s.trace ++ [.setAdminQueue 1 1, .writeCstsRdy true] }) ∧
    (s.inp.ccEn = false → stateStep s = s)) ∧
  ∀ s t : State, step s = .next t → t.ctlState = .waitCcEn → s.ctlState = .idle ∨ s.ctlState = .waitCcEn

/-- RUNNING on a shutdown notification (41_state_controller.md, RUNNING and the shutdown teardown; the order of the clears and
the separate writes are the spec's decisions D20 and D23): the eight queue pairs and the admin queue are cleared, the write
cache disabled, the shutdown status written 1 and then 2, and the bad-block table persisted, in that order; the ready bit
stays. Without a notification nothing changes. -/
def Obligations.ShutdownNotification : Prop :=
  ∀ s : State, s.ctlState = .running →
    (s.inp.ccShn ≠ 0#2 → stateStep s = { s with
      ioqValid := Vector.replicate 8 false, adminQ := .cleared, cacheEn := false, cstsShst := 2#2, ctlState := .shutdown
      trace := s.trace ++ (List.finRange 8).map .clearIoQueuePair ++
        [.clearAdminQueue, .writeCstsShst 1#2, .writeCstsShst 2#2, .persistGrownBadBlockTable s.params.bbtBufBase] }) ∧
    (s.inp.ccShn = 0#2 → stateStep s = s)

/-- SHUTDOWN steps to WAIT_RESET, with no action and nothing else changed, so a tick that finds the block in SHUTDOWN leaves it in
WAIT_RESET unless the RESET forcing took it out first (41_state_controller.md R156). -/
def Obligations.ShutdownStepsOn : Prop :=
  (∀ s : State, s.ctlState = .shutdown → stateStep s = { s with ctlState := .waitReset }) ∧
  ∀ (s t v : State) (inp : Inputs), TickOn s inp v → s.ctlState = .shutdown → inp.resetForce = false →
    step s = .next t → t.ctlState = .waitReset

/-- IDLE does nothing, and WAIT_RESET waits for the host to clear enable, then clears the status registers and the write cache
and goes to IDLE (41_state_controller.md, IDLE and WAIT_RESET; the spec's decisions D7 and D23). -/
def Obligations.WaitResetAndIdle : Prop :=
  ∀ s : State, (s.ctlState = .idle → stateStep s = s) ∧
    (s.ctlState = .waitReset →
      (s.inp.ccEn = false → stateStep s = { s with
        cstsShst := 0#2, cstsRdy := false, cacheEn := false, ctlState := .idle
        trace := s.trace ++ [.writeCstsShst 0#2, .writeCstsRdy false] }) ∧
      (s.inp.ccEn = true → stateStep s = s))

/-- A RESET visit (41_state_controller.md, RESET; the residency and the counter are the spec's decision D6, the order and the form
of the eight clears its decision D20, the single status writes its decision D23, log 20): the queues, the
status registers and the write cache are cleared; while the forcing condition holds the visit is counted and the fifth asks
for a link reset and starts over; once it is gone the block leaves to IDLE with the counter zero. The tracker, the timer
baseline and the fault state stay. -/
def Obligations.ResetVisits : Prop :=
  ∀ s v : State, s.ctlState = .reset →
    v = { s with
      ioqValid := Vector.replicate 8 false, adminQ := .cleared, cacheEn := false, cstsShst := 0#2, cstsRdy := false
      trace := s.trace ++ (List.finRange 8).map .clearIoQueuePair ++
        [.clearAdminQueue, .writeCstsShst 0#2, .writeCstsRdy false] } →
    (s.inp.resetForce = false → stateStep s = { v with rstCnt := 0, ctlState := .idle }) ∧
    (s.inp.resetForce = true → s.rstCnt ≠ 4 → stateStep s = { v with rstCnt := s.rstCnt + 1 }) ∧
    (s.inp.resetForce = true → s.rstCnt = 4 →
      stateStep s = { v with rstCnt := 0, trace := v.trace ++ [.linkResetAsync] })

/-- The transition table of the whole machine (41_state_controller.md, transition summary, which the spec derives; the forcing, its
priority, the residency of RESET and the inputs each state ignores are its decisions D5 to D9, log 20): a tick first applies
the forcing and then the one arm of the state it finds, unless a fault in the dispatch of RUNNING has ended it; boot and
tracker-port requests leave the lifecycle state alone. -/
def Obligations.LifecycleTable : Prop :=
  (∀ (s t v : State) (inp : Inputs), TickOn s inp v → step s = .next t →
    t.ctlState = nextState (forcedState s.ctlState inp) inp ∨
    (t.halted = true ∧ forcedState s.ctlState inp = .running ∧ t.ctlState = .running)) ∧
  ∀ s t : State, NoBlockReset s → (∀ inp v, ¬ TickOn s inp v) → step s = .next t → t.ctlState = s.ctlState

/-- Reset escalation (41_state_controller.md, reset escalation property, which the spec derives from its decision D6): over `n` consecutive ticks with
`reset_force` set, from a zero counter, `LinkResetAsync` is emitted `n / 5` times and the counter is `n mod 5`; said for every
`n`, it is emitted exactly on the 5th, 10th, 15th and so on. -/
def Obligations.ResetEscalation : Prop :=
  ∀ (n : Nat) (s t : State), (∀ j, j < n → ∃ inp : Inputs, s.script[j]? = some (.tick inp) ∧ inp.resetForce = true) →
    s.booted = true → s.rstCnt = 0 → runState n s = some t →
      (runTrace n s).count .linkResetAsync = n / 5 ∧ t.rstCnt = n % 5

/-- Every step keeps the agreement of the status and queue registers with the lifecycle state, and `rst_cnt` in 0..4 and zero
outside RESET (41_state_controller.md, the arms of the states; the residency of RESET, the inputs a state ignores, the form of
the clears and the reset values are the spec's decisions D6, D9, D20 and D21, log 20). -/
def Obligations.StepKeepsTheStatusInvariant : Prop :=
  ∀ s t : State, StatusInv s → step s = .next t → StatusInv t

/-- Every step keeps the fault registers' invariant: a code is recorded exactly when the block is halted. -/
def Obligations.StepKeepsTheFaultInvariant : Prop :=
  ∀ s t : State, FaultInv s → step s = .next t → FaultInv t

/-- Every step leaves the command latch empty and every queued command and the timer baseline within the open widths (how a wide
draw is brought within them is the model's choice, log 10). -/
def Obligations.StepKeepsTheWidths : Prop :=
  ∀ s t : State, WidthInv s → step s = .next t → WidthInv t

/-- No step and no instruction changes a parameter (00_scope.md, section 3; that they stand in State is the model's choice, log
1). -/
def Obligations.ParametersNeverChange : Prop :=
  ∀ s t : State, (step s = .next t → t.params = s.params) ∧ ∀ i : Instr, exec i s = .next t → t.params = s.params

/-- `csts_rdy` holds the last value written to it by an action (10_state.md R36), over every step but a block reset. -/
def Obligations.CstsRdyIsTheLastWritten : Prop :=
  ∀ s t : State, NoBlockReset s → step s = .next t → t.cstsRdy = lastRdy s.cstsRdy t.trace

/-- `csts_shst` holds the last value written to it by an action, and the code 3 is never written (10_state.md R37). -/
def Obligations.CstsShstIsTheLastWritten : Prop :=
  ∀ s t : State, NoBlockReset s → step s = .next t →
    t.cstsShst = lastShst s.cstsShst t.trace ∧ ∀ w, .writeCstsShst w ∈ t.trace → w = 0#2 ∨ w = 1#2 ∨ w = 2#2

/-! ### The control loop -/

/-- A tick polls once if it finds the block RUNNING after the forcing, and not at all otherwise; no other step polls
(10_state.md, section 8.2, and 41_state_controller.md, section on dispatch; the spec's decision D38). -/
def Obligations.PollsOnceInRunning : Prop :=
  (∀ (s t v : State) (inp : Inputs), TickOn s inp v → step s = .next t →
    t.trace.count .fetchCommand = if forcedState s.ctlState inp = .running then 1 else 0) ∧
  ∀ s t : State, (∀ inp v, ¬ TickOn s inp v) → step s = .next t → .fetchCommand ∉ t.trace

/-- A queued command is consumed only by a poll that returns it (10_state.md, section 8.2, the spec's decision D38; the form of
the queue is the model's, log 4; that arrivals are brought within their widths is log 10; that queued commands survive a block
reset is the model's choice, which the spec does not settle, log 19): a tick appends the commands the host queues and, in RUNNING, takes out the one its poll
returns; every other step leaves the queue alone. -/
def Obligations.QueuedCommandsWait : Prop :=
  (∀ (s t v : State) (inp : Inputs), TickOn s inp v → step s = .next t →
    t.hostq = afterFetch (s.hostq ++ inp.arrivals.map (clipCommand s.params))
      (if forcedState s.ctlState inp = .running then inp.fetch else none)) ∧
  ∀ s t : State, (∀ inp v, ¬ TickOn s inp v) → step s = .next t → t.hostq = s.hostq

/-- The dispatch of an I/O command and background scheduling exclude each other within a step (43_control_loop.md, step 4, which
the spec derives): a tick in RUNNING whose poll returns a command with `qid` other than 0, whether its dispatch ends in a
fault or not, emits neither action of step 4, and no step emits one of them together with the hand-over of requests. -/
def Obligations.DispatchExcludesBackground : Prop :=
  ∀ s t : State, step s = .next t →
    (∀ (v : State) (inp : Inputs) (c : Command) (q : List Command), TickOn s inp v →
      (beginTick inp v).ctlState = .running → polled (beginTick inp v) = some (c, q) → c.tag.qid ≠ 0 →
        .reconcileCompletedDmaRequests ∉ t.trace ∧ .scheduleStorageRequests ∉ t.trace) ∧
    (.flushSubmissionQueueToLowLevel ∈ t.trace →
      .reconcileCompletedDmaRequests ∉ t.trace ∧ .scheduleStorageRequests ∉ t.trace)

/-- Background scheduling (43_control_loop.md, step 4; the sampling is the spec's decision D24; the PUSHes at each return are
10_state.md, section 8.3, and its decisions D16 and D32): with `run_bg` set and a pending condition, reconciliation and the
environment's PUSHes of its return; if one of those halts the block the tick ends there; otherwise scheduling and the PUSHes
of its return. With `run_bg` clear or no pending condition, nothing. -/
def Obligations.BackgroundScheduling : Prop :=
  ∀ s : State,
    (s.runBg = true → (s.inp.dmaPending = true ∨ s.inp.nandOutstanding = true ∨ s.inp.reqBlocked = true) →
      s.halted = false →
        (∀ t, t = pushAll (s.inp.pushes.headD []) { s with
            trace := s.trace ++ [.reconcileCompletedDmaRequests], inp := { s.inp with pushes := s.inp.pushes.tail } } →
          (t.halted = true → background s = t) ∧
          (t.halted = false → background s = pushAll (t.inp.pushes.headD []) { t with
            trace := t.trace ++ [.scheduleStorageRequests], inp := { t.inp with pushes := t.inp.pushes.tail } })) ∧
        (s.inp.pushes = [] →
          background s = { s with trace := s.trace ++ [.reconcileCompletedDmaRequests, .scheduleStorageRequests] })) ∧
    (s.runBg = false ∨ (s.inp.dmaPending = false ∧ s.inp.nandOutstanding = false ∧ s.inp.reqBlocked = false) →
      background s = s)

/-- The block posts a completion only with two zeros and only for a FLUSH it has fetched in the same step, on that command's
slot (10_state.md, section 8.2; the spec's decision D39). A completion the admin handler posts is not meant: the model gives it
an action name of its own (log 17), and with the two counted together the statement would be false. -/
def Obligations.CompletionsAreOfFlushes : Prop :=
  ∀ (s t : State) (slot specific status : Nat), step s = .next t → .postCompletion slot specific status ∈ t.trace →
    specific = 0 ∧ status = 0 ∧ ∃ inp v c q view, TickOn s inp v ∧ polled (beginTick inp v) = some (c, q) ∧
      decodeCommand c = .ok (.flush c.tag view) ∧ slot = c.tag.slot

/-- An instruction that halts the block ends its tick: nothing is emitted and nothing changes after it, but that the command
latch is released (60_exceptions.md, fault entry, the spec's decision D10; the latch is log 18). -/
def Obligations.FaultEndsTheTick : Prop :=
  ∀ (s v u : State) (inp : Inputs) (c : Command) (q : List Command) (i : Instr),
    TickOn s inp v → (beginTick inp v).ctlState = .running → polled (beginTick inp v) = some (c, q) →
    decodeCommand c = .ok i → exec i (fetchCommand (beginTick inp v)) = .next u → u.halted = true →
      step s = .next { u with cmd := none }

/-- A fetched READ or WRITE that violates a check has no effect but the fault (60_exceptions.md, section 2, which the spec
derives; its decisions D10 and D40): the step answers a halted state that is the state the tick began with, the command taken
out of the host queue, `rst_cnt` zeroed by the poll, the poll as the whole trace, and the fault recorded with one of the four
codes of the checks. So the lifecycle state, the status and queue registers, the write cache, the timer baseline and both
streams are as they were before the step, and no request is submitted and no completion posted. The form of the host queue is
the model's, log 4; wide draws are brought within their widths, log 10. -/
def Obligations.MalformedCommandEmitsNothing : Prop :=
  ∀ (s v : State) (inp : Inputs) (c : Command) (q : List Command) (view : IoView) (i : Instr) (n : Nat),
    TickOn s inp v → (beginTick inp v).ctlState = .running → polled (beginTick inp v) = some (c, q) →
    decodeCommand c = .ok i → (i = .read c.tag view ∧ n = 4 ∨ i = .write c.tag view ∧ n = 16) →
    ¬ (LbaInRange v.params view ∧ PrpInRange v.params view.prp1Lo view.prp1Hi n ∧
        PrpInRange v.params view.prp2Lo view.prp2Hi n) →
      ∃ t code info, step s = .next t ∧
        (code = .lbaLowRange ∨ code = .lbaHighRange ∨ code = .prpMisaligned ∨ code = .prpHighRange) ∧
        t = { beginTick inp v with
          hostq := q, rstCnt := 0, trace := [.fetchCommand], halted := true, faultCode := code, faultInfo := info } ∧
        s.ctlState = .running ∧ t.ctlState = .running ∧ t.cstsRdy = s.cstsRdy ∧ t.cstsShst = s.cstsShst ∧
        t.adminQ = s.adminQ ∧ t.ioqValid = s.ioqValid ∧ t.cacheEn = s.cacheEn ∧ t.flushTimerBase = s.flushTimerBase ∧
        t.trk1 = s.trk1 ∧ t.trk2 = s.trk2
end

