-- ==== Sys2Proof/Laws/Memory.lean ====
section
/-! SUPPORT. The laws of the tracker buffers: a read after a write, the canonical form every write keeps, and that equal
contents are equal data. -/

namespace Sys2Proof.Machine

variable {inv : Epoch}

@[simp] theorem Memory.read_nil (a : Nat) : Memory.read inv [] a = inv := rfl

theorem Memory.read_cons (b : Nat) (w : Epoch) (m : Memory) (a : Nat) :
    Memory.read inv ((b, w) :: m) a = if a = b then w else Memory.read inv m a := rfl

theorem Memory.wfFrom_cons {lo b : Nat} {w : Epoch} {m : Memory} :
    Memory.wfFrom inv lo ((b, w) :: m) = true ↔
      lo ≤ b ∧ b < Config.trkCap ∧ w ≠ inv ∧ Memory.wfFrom inv (b + 1) m = true := by
  simp [Memory.wfFrom]

/-- A smaller lower bound is a weaker demand. -/
theorem Memory.wfFrom_mono {lo lo' : Nat} {m : Memory} (h : lo' ≤ lo) (hm : Memory.wfFrom inv lo m = true) :
    Memory.wfFrom inv lo' m = true := by
  cases m with
  | nil => rfl
  | cons c m => obtain ⟨b, w⟩ := c; rw [Memory.wfFrom_cons] at hm ⊢; exact ⟨by omega, hm.2⟩

/-- A slot below the lower bound is unlisted. -/
theorem Memory.read_of_lt {lo a : Nat} {m : Memory} (hm : Memory.wfFrom inv lo m = true) (ha : a < lo) :
    Memory.read inv m a = inv := by
  induction m generalizing lo with
  | nil => rfl
  | cons c m ih =>
    obtain ⟨b, w⟩ := c
    rw [Memory.wfFrom_cons] at hm
    rw [Memory.read_cons, if_neg (by omega)]
    exact ih hm.2.2.2 (by omega)

/-- A slot past the last one is unlisted. -/
theorem Memory.read_of_ge {lo a : Nat} {m : Memory} (hm : Memory.wfFrom inv lo m = true) (ha : Config.trkCap ≤ a) :
    Memory.read inv m a = inv := by
  induction m generalizing lo with
  | nil => rfl
  | cons c m ih =>
    obtain ⟨b, w⟩ := c
    rw [Memory.wfFrom_cons] at hm
    rw [Memory.read_cons, if_neg (by omega)]
    exact ih hm.2.2.2

/-- A write leaves every other slot alone. -/
theorem Memory.read_write_other {a b : Nat} (h : b ≠ a) (m : Memory) (v : Epoch) :
    Memory.read inv (Memory.write inv m a v) b = Memory.read inv m b := by
  induction m with
  | nil => simp only [Memory.write]; split <;> simp [Memory.read_cons, h]
  | cons c m ih =>
    obtain ⟨d, w⟩ := c
    simp only [Memory.write]
    split
    · subst_vars; split <;> simp [Memory.read_cons, h]
    · split
      · split <;> simp [Memory.read_cons, h]
      · simp [Memory.read_cons, ih]

/-- A read after a write to the same slot gives the value written. -/
theorem Memory.read_write_same {lo : Nat} {m : Memory} (hm : Memory.wfFrom inv lo m = true) (a : Nat) (v : Epoch) :
    Memory.read inv (Memory.write inv m a v) a = v := by
  induction m generalizing lo with
  | nil => simp only [Memory.write]; split <;> simp [Memory.read_cons, *]
  | cons c m ih =>
    obtain ⟨d, w⟩ := c
    rw [Memory.wfFrom_cons] at hm
    simp only [Memory.write]
    split
    · subst_vars
      split
      · subst_vars; exact Memory.read_of_lt hm.2.2.2 (by omega)
      · simp [Memory.read_cons]
    · split
      · split
        · subst_vars; rw [Memory.read_cons, if_neg (by omega)]; exact Memory.read_of_lt hm.2.2.2 (by omega)
        · simp [Memory.read_cons]
      · rw [Memory.read_cons, if_neg (by omega)]; exact ih hm.2.2.2

/-- A write keeps the canonical form. -/
theorem Memory.wfFrom_write {lo : Nat} {m : Memory} (hm : Memory.wfFrom inv lo m = true) {a : Nat} (hlo : lo ≤ a)
    (ha : a < Config.trkCap) (v : Epoch) : Memory.wfFrom inv lo (Memory.write inv m a v) = true := by
  induction m generalizing lo with
  | nil =>
    simp only [Memory.write]
    split
    · rfl
    · rw [Memory.wfFrom_cons]; exact ⟨hlo, ha, ‹_›, rfl⟩
  | cons c m ih =>
    obtain ⟨d, w⟩ := c
    have hm' := Memory.wfFrom_cons.mp hm
    simp only [Memory.write]
    split
    · subst_vars
      split
      · exact Memory.wfFrom_mono (by omega) hm'.2.2.2
      · rw [Memory.wfFrom_cons]; exact ⟨hlo, ha, ‹_›, hm'.2.2.2⟩
    · split
      · split
        · exact hm
        · rw [Memory.wfFrom_cons]
          exact ⟨hlo, ha, ‹_›, Memory.wfFrom_cons.mpr ⟨by omega, hm'.2⟩⟩
      · rw [Memory.wfFrom_cons]; exact ⟨hm'.1, hm'.2.1, hm'.2.2.1, ih hm'.2.2.2 (by omega)⟩

/-- A write keeps the canonical form of a tracker buffer. -/
theorem Memory.wf_write {m : Memory} (hm : m.wf inv = true) {a : Nat} (ha : a < Config.trkCap) (v : Epoch) :
    Memory.wf inv (Memory.write inv m a v) = true := Memory.wfFrom_write hm (Nat.zero_le a) ha v

@[simp] theorem Memory.wf_nil : Memory.wf inv [] = true := rfl

/-- Reading slot `b` after writing slot `a` of a canonical buffer. -/
theorem Memory.read_write {m : Memory} (hm : m.wf inv = true) (a b : Nat) (v : Epoch) :
    Memory.read inv (Memory.write inv m a v) b = if b = a then v else Memory.read inv m b := by
  split
  · subst_vars; exact Memory.read_write_same hm _ v
  · exact Memory.read_write_other ‹_› m v

/-- Two canonical buffers in which every slot reads the same are the same list. -/
theorem Memory.ext_read {lo : Nat} {m n : Memory} (hm : Memory.wfFrom inv lo m = true) (hn : Memory.wfFrom inv lo n = true)
    (h : ∀ a, a < Config.trkCap → Memory.read inv m a = Memory.read inv n a) : m = n := by
  induction m generalizing n lo with
  | nil =>
    cases n with
    | nil => rfl
    | cons c n =>
      obtain ⟨b, w⟩ := c
      rw [Memory.wfFrom_cons] at hn
      exact absurd (by simpa [Memory.read_cons] using (h b hn.2.1).symm) hn.2.2.1
  | cons c m ih =>
    obtain ⟨b, w⟩ := c
    have hm' := Memory.wfFrom_cons.mp hm
    cases n with
    | nil => exact absurd (by simpa [Memory.read_cons] using h b hm'.2.1) hm'.2.2.1
    | cons d n =>
      obtain ⟨b', w'⟩ := d
      have hn' := Memory.wfFrom_cons.mp hn
      have hbb : b = b' := by
        rcases Nat.lt_trichotomy b b' with hlt | heq | hgt
        · have := h b hm'.2.1
          rw [Memory.read_cons, if_pos rfl, Memory.read_cons, if_neg (by omega),
            Memory.read_of_lt hn'.2.2.2 (by omega)] at this
          exact absurd this hm'.2.2.1
        · exact heq
        · have := h b' hn'.2.1
          rw [Memory.read_cons, if_neg (by omega), Memory.read_of_lt hm'.2.2.2 (by omega), Memory.read_cons,
            if_pos rfl] at this
          exact absurd this.symm hn'.2.2.1
      subst hbb
      have hw : w = w' := by simpa [Memory.read_cons] using h b hm'.2.1
      subst hw
      congr 1
      refine ih hm'.2.2.2 hn'.2.2.2 fun a ha => ?_
      rcases Nat.lt_or_ge b a with hlt | hge
      · simpa [Memory.read_cons, Nat.ne_of_gt hlt] using h a ha
      · rw [Memory.read_of_lt hm'.2.2.2 (by omega), Memory.read_of_lt hn'.2.2.2 (by omega)]

end Sys2Proof.Machine
end

