-- ==== Sys2Proof/Laws/State.lean ====
section
/-! SUPPORT. What each update of the state leaves in each field: one lemma per field, so that no proof unfolds an update. -/

namespace Sys2Proof.Machine

variable (s : State)

/-! ### emit -/

@[simp] theorem emit_params (a : Action) : (emit a s).params = s.params := rfl
@[simp] theorem emit_booted (a : Action) : (emit a s).booted = s.booted := rfl
@[simp] theorem emit_halted (a : Action) : (emit a s).halted = s.halted := rfl
@[simp] theorem emit_faultCode (a : Action) : (emit a s).faultCode = s.faultCode := rfl
@[simp] theorem emit_faultInfo (a : Action) : (emit a s).faultInfo = s.faultInfo := rfl
@[simp] theorem emit_ctlState (a : Action) : (emit a s).ctlState = s.ctlState := rfl
@[simp] theorem emit_cacheEn (a : Action) : (emit a s).cacheEn = s.cacheEn := rfl
@[simp] theorem emit_cstsRdy (a : Action) : (emit a s).cstsRdy = s.cstsRdy := rfl
@[simp] theorem emit_cstsShst (a : Action) : (emit a s).cstsShst = s.cstsShst := rfl
@[simp] theorem emit_adminQ (a : Action) : (emit a s).adminQ = s.adminQ := rfl
@[simp] theorem emit_ioqValid (a : Action) : (emit a s).ioqValid = s.ioqValid := rfl
@[simp] theorem emit_rstCnt (a : Action) : (emit a s).rstCnt = s.rstCnt := rfl
@[simp] theorem emit_flushTimerBase (a : Action) : (emit a s).flushTimerBase = s.flushTimerBase := rfl
@[simp] theorem emit_trk1 (a : Action) : (emit a s).trk1 = s.trk1 := rfl
@[simp] theorem emit_trk2 (a : Action) : (emit a s).trk2 = s.trk2 := rfl
@[simp] theorem emit_cmd (a : Action) : (emit a s).cmd = s.cmd := rfl
@[simp] theorem emit_runBg (a : Action) : (emit a s).runBg = s.runBg := rfl
@[simp] theorem emit_inp (a : Action) : (emit a s).inp = s.inp := rfl
@[simp] theorem emit_portResult (a : Action) : (emit a s).portResult = s.portResult := rfl
@[simp] theorem emit_trace (a : Action) : (emit a s).trace = s.trace ++ [a] := rfl
@[simp] theorem emit_hostq (a : Action) : (emit a s).hostq = s.hostq := rfl
@[simp] theorem emit_script (a : Action) : (emit a s).script = s.script := rfl
@[simp] theorem emit_drawNo (a : Action) : (emit a s).drawNo = s.drawNo := rfl

/-! ### raiseFault -/

@[simp] theorem raiseFault_params (c : FaultCode) (i : FaultInfo) : (raiseFault c i s).params = s.params := rfl
@[simp] theorem raiseFault_booted (c : FaultCode) (i : FaultInfo) : (raiseFault c i s).booted = s.booted := rfl
@[simp] theorem raiseFault_halted (c : FaultCode) (i : FaultInfo) : (raiseFault c i s).halted = true := rfl
@[simp] theorem raiseFault_faultCode (c : FaultCode) (i : FaultInfo) : (raiseFault c i s).faultCode = c := rfl
@[simp] theorem raiseFault_faultInfo (c : FaultCode) (i : FaultInfo) : (raiseFault c i s).faultInfo = i := rfl
@[simp] theorem raiseFault_ctlState (c : FaultCode) (i : FaultInfo) : (raiseFault c i s).ctlState = s.ctlState := rfl
@[simp] theorem raiseFault_cacheEn (c : FaultCode) (i : FaultInfo) : (raiseFault c i s).cacheEn = s.cacheEn := rfl
@[simp] theorem raiseFault_cstsRdy (c : FaultCode) (i : FaultInfo) : (raiseFault c i s).cstsRdy = s.cstsRdy := rfl
@[simp] theorem raiseFault_cstsShst (c : FaultCode) (i : FaultInfo) : (raiseFault c i s).cstsShst = s.cstsShst := rfl
@[simp] theorem raiseFault_adminQ (c : FaultCode) (i : FaultInfo) : (raiseFault c i s).adminQ = s.adminQ := rfl
@[simp] theorem raiseFault_ioqValid (c : FaultCode) (i : FaultInfo) : (raiseFault c i s).ioqValid = s.ioqValid := rfl
@[simp] theorem raiseFault_rstCnt (c : FaultCode) (i : FaultInfo) : (raiseFault c i s).rstCnt = s.rstCnt := rfl
@[simp] theorem raiseFault_flushTimerBase (c : FaultCode) (i : FaultInfo) : (raiseFault c i s).flushTimerBase = s.flushTimerBase := rfl
@[simp] theorem raiseFault_trk1 (c : FaultCode) (i : FaultInfo) : (raiseFault c i s).trk1 = s.trk1 := rfl
@[simp] theorem raiseFault_trk2 (c : FaultCode) (i : FaultInfo) : (raiseFault c i s).trk2 = s.trk2 := rfl
@[simp] theorem raiseFault_cmd (c : FaultCode) (i : FaultInfo) : (raiseFault c i s).cmd = s.cmd := rfl
@[simp] theorem raiseFault_runBg (c : FaultCode) (i : FaultInfo) : (raiseFault c i s).runBg = s.runBg := rfl
@[simp] theorem raiseFault_inp (c : FaultCode) (i : FaultInfo) : (raiseFault c i s).inp = s.inp := rfl
@[simp] theorem raiseFault_portResult (c : FaultCode) (i : FaultInfo) : (raiseFault c i s).portResult = s.portResult := rfl
@[simp] theorem raiseFault_trace (c : FaultCode) (i : FaultInfo) : (raiseFault c i s).trace = s.trace := rfl
@[simp] theorem raiseFault_hostq (c : FaultCode) (i : FaultInfo) : (raiseFault c i s).hostq = s.hostq := rfl
@[simp] theorem raiseFault_script (c : FaultCode) (i : FaultInfo) : (raiseFault c i s).script = s.script := rfl
@[simp] theorem raiseFault_drawNo (c : FaultCode) (i : FaultInfo) : (raiseFault c i s).drawNo = s.drawNo := rfl

/-! ### writeCstsRdy -/

@[simp] theorem writeCstsRdy_params (v : Bool) : (writeCstsRdy v s).params = s.params := rfl
@[simp] theorem writeCstsRdy_booted (v : Bool) : (writeCstsRdy v s).booted = s.booted := rfl
@[simp] theorem writeCstsRdy_halted (v : Bool) : (writeCstsRdy v s).halted = s.halted := rfl
@[simp] theorem writeCstsRdy_faultCode (v : Bool) : (writeCstsRdy v s).faultCode = s.faultCode := rfl
@[simp] theorem writeCstsRdy_faultInfo (v : Bool) : (writeCstsRdy v s).faultInfo = s.faultInfo := rfl
@[simp] theorem writeCstsRdy_ctlState (v : Bool) : (writeCstsRdy v s).ctlState = s.ctlState := rfl
@[simp] theorem writeCstsRdy_cacheEn (v : Bool) : (writeCstsRdy v s).cacheEn = s.cacheEn := rfl
@[simp] theorem writeCstsRdy_cstsRdy (v : Bool) : (writeCstsRdy v s).cstsRdy = v := rfl
@[simp] theorem writeCstsRdy_cstsShst (v : Bool) : (writeCstsRdy v s).cstsShst = s.cstsShst := rfl
@[simp] theorem writeCstsRdy_adminQ (v : Bool) : (writeCstsRdy v s).adminQ = s.adminQ := rfl
@[simp] theorem writeCstsRdy_ioqValid (v : Bool) : (writeCstsRdy v s).ioqValid = s.ioqValid := rfl
@[simp] theorem writeCstsRdy_rstCnt (v : Bool) : (writeCstsRdy v s).rstCnt = s.rstCnt := rfl
@[simp] theorem writeCstsRdy_flushTimerBase (v : Bool) : (writeCstsRdy v s).flushTimerBase = s.flushTimerBase := rfl
@[simp] theorem writeCstsRdy_trk1 (v : Bool) : (writeCstsRdy v s).trk1 = s.trk1 := rfl
@[simp] theorem writeCstsRdy_trk2 (v : Bool) : (writeCstsRdy v s).trk2 = s.trk2 := rfl
@[simp] theorem writeCstsRdy_cmd (v : Bool) : (writeCstsRdy v s).cmd = s.cmd := rfl
@[simp] theorem writeCstsRdy_runBg (v : Bool) : (writeCstsRdy v s).runBg = s.runBg := rfl
@[simp] theorem writeCstsRdy_inp (v : Bool) : (writeCstsRdy v s).inp = s.inp := rfl
@[simp] theorem writeCstsRdy_portResult (v : Bool) : (writeCstsRdy v s).portResult = s.portResult := rfl
@[simp] theorem writeCstsRdy_trace (v : Bool) : (writeCstsRdy v s).trace = s.trace ++ [.writeCstsRdy v] := rfl
@[simp] theorem writeCstsRdy_hostq (v : Bool) : (writeCstsRdy v s).hostq = s.hostq := rfl
@[simp] theorem writeCstsRdy_script (v : Bool) : (writeCstsRdy v s).script = s.script := rfl
@[simp] theorem writeCstsRdy_drawNo (v : Bool) : (writeCstsRdy v s).drawNo = s.drawNo := rfl

/-! ### writeCstsShst -/

@[simp] theorem writeCstsShst_params (v : BitVec 2) : (writeCstsShst v s).params = s.params := rfl
@[simp] theorem writeCstsShst_booted (v : BitVec 2) : (writeCstsShst v s).booted = s.booted := rfl
@[simp] theorem writeCstsShst_halted (v : BitVec 2) : (writeCstsShst v s).halted = s.halted := rfl
@[simp] theorem writeCstsShst_faultCode (v : BitVec 2) : (writeCstsShst v s).faultCode = s.faultCode := rfl
@[simp] theorem writeCstsShst_faultInfo (v : BitVec 2) : (writeCstsShst v s).faultInfo = s.faultInfo := rfl
@[simp] theorem writeCstsShst_ctlState (v : BitVec 2) : (writeCstsShst v s).ctlState = s.ctlState := rfl
@[simp] theorem writeCstsShst_cacheEn (v : BitVec 2) : (writeCstsShst v s).cacheEn = s.cacheEn := rfl
@[simp] theorem writeCstsShst_cstsRdy (v : BitVec 2) : (writeCstsShst v s).cstsRdy = s.cstsRdy := rfl
@[simp] theorem writeCstsShst_cstsShst (v : BitVec 2) : (writeCstsShst v s).cstsShst = v := rfl
@[simp] theorem writeCstsShst_adminQ (v : BitVec 2) : (writeCstsShst v s).adminQ = s.adminQ := rfl
@[simp] theorem writeCstsShst_ioqValid (v : BitVec 2) : (writeCstsShst v s).ioqValid = s.ioqValid := rfl
@[simp] theorem writeCstsShst_rstCnt (v : BitVec 2) : (writeCstsShst v s).rstCnt = s.rstCnt := rfl
@[simp] theorem writeCstsShst_flushTimerBase (v : BitVec 2) : (writeCstsShst v s).flushTimerBase = s.flushTimerBase := rfl
@[simp] theorem writeCstsShst_trk1 (v : BitVec 2) : (writeCstsShst v s).trk1 = s.trk1 := rfl
@[simp] theorem writeCstsShst_trk2 (v : BitVec 2) : (writeCstsShst v s).trk2 = s.trk2 := rfl
@[simp] theorem writeCstsShst_cmd (v : BitVec 2) : (writeCstsShst v s).cmd = s.cmd := rfl
@[simp] theorem writeCstsShst_runBg (v : BitVec 2) : (writeCstsShst v s).runBg = s.runBg := rfl
@[simp] theorem writeCstsShst_inp (v : BitVec 2) : (writeCstsShst v s).inp = s.inp := rfl
@[simp] theorem writeCstsShst_portResult (v : BitVec 2) : (writeCstsShst v s).portResult = s.portResult := rfl
@[simp] theorem writeCstsShst_trace (v : BitVec 2) : (writeCstsShst v s).trace = s.trace ++ [.writeCstsShst v] := rfl
@[simp] theorem writeCstsShst_hostq (v : BitVec 2) : (writeCstsShst v s).hostq = s.hostq := rfl
@[simp] theorem writeCstsShst_script (v : BitVec 2) : (writeCstsShst v s).script = s.script := rfl
@[simp] theorem writeCstsShst_drawNo (v : BitVec 2) : (writeCstsShst v s).drawNo = s.drawNo := rfl

/-! ### setAdminQueue -/

@[simp] theorem setAdminQueue_params (a b : Nat) : (setAdminQueue a b s).params = s.params := rfl
@[simp] theorem setAdminQueue_booted (a b : Nat) : (setAdminQueue a b s).booted = s.booted := rfl
@[simp] theorem setAdminQueue_halted (a b : Nat) : (setAdminQueue a b s).halted = s.halted := rfl
@[simp] theorem setAdminQueue_faultCode (a b : Nat) : (setAdminQueue a b s).faultCode = s.faultCode := rfl
@[simp] theorem setAdminQueue_faultInfo (a b : Nat) : (setAdminQueue a b s).faultInfo = s.faultInfo := rfl
@[simp] theorem setAdminQueue_ctlState (a b : Nat) : (setAdminQueue a b s).ctlState = s.ctlState := rfl
@[simp] theorem setAdminQueue_cacheEn (a b : Nat) : (setAdminQueue a b s).cacheEn = s.cacheEn := rfl
@[simp] theorem setAdminQueue_cstsRdy (a b : Nat) : (setAdminQueue a b s).cstsRdy = s.cstsRdy := rfl
@[simp] theorem setAdminQueue_cstsShst (a b : Nat) : (setAdminQueue a b s).cstsShst = s.cstsShst := rfl
@[simp] theorem setAdminQueue_adminQ (a b : Nat) : (setAdminQueue a b s).adminQ = .armed a b := rfl
@[simp] theorem setAdminQueue_ioqValid (a b : Nat) : (setAdminQueue a b s).ioqValid = s.ioqValid := rfl
@[simp] theorem setAdminQueue_rstCnt (a b : Nat) : (setAdminQueue a b s).rstCnt = s.rstCnt := rfl
@[simp] theorem setAdminQueue_flushTimerBase (a b : Nat) : (setAdminQueue a b s).flushTimerBase = s.flushTimerBase := rfl
@[simp] theorem setAdminQueue_trk1 (a b : Nat) : (setAdminQueue a b s).trk1 = s.trk1 := rfl
@[simp] theorem setAdminQueue_trk2 (a b : Nat) : (setAdminQueue a b s).trk2 = s.trk2 := rfl
@[simp] theorem setAdminQueue_cmd (a b : Nat) : (setAdminQueue a b s).cmd = s.cmd := rfl
@[simp] theorem setAdminQueue_runBg (a b : Nat) : (setAdminQueue a b s).runBg = s.runBg := rfl
@[simp] theorem setAdminQueue_inp (a b : Nat) : (setAdminQueue a b s).inp = s.inp := rfl
@[simp] theorem setAdminQueue_portResult (a b : Nat) : (setAdminQueue a b s).portResult = s.portResult := rfl
@[simp] theorem setAdminQueue_trace (a b : Nat) : (setAdminQueue a b s).trace = s.trace ++ [.setAdminQueue a b] := rfl
@[simp] theorem setAdminQueue_hostq (a b : Nat) : (setAdminQueue a b s).hostq = s.hostq := rfl
@[simp] theorem setAdminQueue_script (a b : Nat) : (setAdminQueue a b s).script = s.script := rfl
@[simp] theorem setAdminQueue_drawNo (a b : Nat) : (setAdminQueue a b s).drawNo = s.drawNo := rfl

/-! ### clearAdminQueue -/

@[simp] theorem clearAdminQueue_params : (clearAdminQueue s).params = s.params := rfl
@[simp] theorem clearAdminQueue_booted : (clearAdminQueue s).booted = s.booted := rfl
@[simp] theorem clearAdminQueue_halted : (clearAdminQueue s).halted = s.halted := rfl
@[simp] theorem clearAdminQueue_faultCode : (clearAdminQueue s).faultCode = s.faultCode := rfl
@[simp] theorem clearAdminQueue_faultInfo : (clearAdminQueue s).faultInfo = s.faultInfo := rfl
@[simp] theorem clearAdminQueue_ctlState : (clearAdminQueue s).ctlState = s.ctlState := rfl
@[simp] theorem clearAdminQueue_cacheEn : (clearAdminQueue s).cacheEn = s.cacheEn := rfl
@[simp] theorem clearAdminQueue_cstsRdy : (clearAdminQueue s).cstsRdy = s.cstsRdy := rfl
@[simp] theorem clearAdminQueue_cstsShst : (clearAdminQueue s).cstsShst = s.cstsShst := rfl
@[simp] theorem clearAdminQueue_adminQ : (clearAdminQueue s).adminQ = .cleared := rfl
@[simp] theorem clearAdminQueue_ioqValid : (clearAdminQueue s).ioqValid = s.ioqValid := rfl
@[simp] theorem clearAdminQueue_rstCnt : (clearAdminQueue s).rstCnt = s.rstCnt := rfl
@[simp] theorem clearAdminQueue_flushTimerBase : (clearAdminQueue s).flushTimerBase = s.flushTimerBase := rfl
@[simp] theorem clearAdminQueue_trk1 : (clearAdminQueue s).trk1 = s.trk1 := rfl
@[simp] theorem clearAdminQueue_trk2 : (clearAdminQueue s).trk2 = s.trk2 := rfl
@[simp] theorem clearAdminQueue_cmd : (clearAdminQueue s).cmd = s.cmd := rfl
@[simp] theorem clearAdminQueue_runBg : (clearAdminQueue s).runBg = s.runBg := rfl
@[simp] theorem clearAdminQueue_inp : (clearAdminQueue s).inp = s.inp := rfl
@[simp] theorem clearAdminQueue_portResult : (clearAdminQueue s).portResult = s.portResult := rfl
@[simp] theorem clearAdminQueue_trace : (clearAdminQueue s).trace = s.trace ++ [.clearAdminQueue] := rfl
@[simp] theorem clearAdminQueue_hostq : (clearAdminQueue s).hostq = s.hostq := rfl
@[simp] theorem clearAdminQueue_script : (clearAdminQueue s).script = s.script := rfl
@[simp] theorem clearAdminQueue_drawNo : (clearAdminQueue s).drawNo = s.drawNo := rfl

/-! ### clearIoQueuePair -/

@[simp] theorem clearIoQueuePair_params (p : Fin 8) : (clearIoQueuePair p s).params = s.params := rfl
@[simp] theorem clearIoQueuePair_booted (p : Fin 8) : (clearIoQueuePair p s).booted = s.booted := rfl
@[simp] theorem clearIoQueuePair_halted (p : Fin 8) : (clearIoQueuePair p s).halted = s.halted := rfl
@[simp] theorem clearIoQueuePair_faultCode (p : Fin 8) : (clearIoQueuePair p s).faultCode = s.faultCode := rfl
@[simp] theorem clearIoQueuePair_faultInfo (p : Fin 8) : (clearIoQueuePair p s).faultInfo = s.faultInfo := rfl
@[simp] theorem clearIoQueuePair_ctlState (p : Fin 8) : (clearIoQueuePair p s).ctlState = s.ctlState := rfl
@[simp] theorem clearIoQueuePair_cacheEn (p : Fin 8) : (clearIoQueuePair p s).cacheEn = s.cacheEn := rfl
@[simp] theorem clearIoQueuePair_cstsRdy (p : Fin 8) : (clearIoQueuePair p s).cstsRdy = s.cstsRdy := rfl
@[simp] theorem clearIoQueuePair_cstsShst (p : Fin 8) : (clearIoQueuePair p s).cstsShst = s.cstsShst := rfl
@[simp] theorem clearIoQueuePair_adminQ (p : Fin 8) : (clearIoQueuePair p s).adminQ = s.adminQ := rfl
@[simp] theorem clearIoQueuePair_ioqValid (p : Fin 8) : (clearIoQueuePair p s).ioqValid = s.ioqValid.set p false := rfl
@[simp] theorem clearIoQueuePair_rstCnt (p : Fin 8) : (clearIoQueuePair p s).rstCnt = s.rstCnt := rfl
@[simp] theorem clearIoQueuePair_flushTimerBase (p : Fin 8) : (clearIoQueuePair p s).flushTimerBase = s.flushTimerBase := rfl
@[simp] theorem clearIoQueuePair_trk1 (p : Fin 8) : (clearIoQueuePair p s).trk1 = s.trk1 := rfl
@[simp] theorem clearIoQueuePair_trk2 (p : Fin 8) : (clearIoQueuePair p s).trk2 = s.trk2 := rfl
@[simp] theorem clearIoQueuePair_cmd (p : Fin 8) : (clearIoQueuePair p s).cmd = s.cmd := rfl
@[simp] theorem clearIoQueuePair_runBg (p : Fin 8) : (clearIoQueuePair p s).runBg = s.runBg := rfl
@[simp] theorem clearIoQueuePair_inp (p : Fin 8) : (clearIoQueuePair p s).inp = s.inp := rfl
@[simp] theorem clearIoQueuePair_portResult (p : Fin 8) : (clearIoQueuePair p s).portResult = s.portResult := rfl
@[simp] theorem clearIoQueuePair_trace (p : Fin 8) : (clearIoQueuePair p s).trace = s.trace ++ [.clearIoQueuePair p] := rfl
@[simp] theorem clearIoQueuePair_hostq (p : Fin 8) : (clearIoQueuePair p s).hostq = s.hostq := rfl
@[simp] theorem clearIoQueuePair_script (p : Fin 8) : (clearIoQueuePair p s).script = s.script := rfl
@[simp] theorem clearIoQueuePair_drawNo (p : Fin 8) : (clearIoQueuePair p s).drawNo = s.drawNo := rfl

/-! ### disableWriteCache -/

@[simp] theorem disableWriteCache_params : (disableWriteCache s).params = s.params := rfl
@[simp] theorem disableWriteCache_booted : (disableWriteCache s).booted = s.booted := rfl
@[simp] theorem disableWriteCache_halted : (disableWriteCache s).halted = s.halted := rfl
@[simp] theorem disableWriteCache_faultCode : (disableWriteCache s).faultCode = s.faultCode := rfl
@[simp] theorem disableWriteCache_faultInfo : (disableWriteCache s).faultInfo = s.faultInfo := rfl
@[simp] theorem disableWriteCache_ctlState : (disableWriteCache s).ctlState = s.ctlState := rfl
@[simp] theorem disableWriteCache_cacheEn : (disableWriteCache s).cacheEn = false := rfl
@[simp] theorem disableWriteCache_cstsRdy : (disableWriteCache s).cstsRdy = s.cstsRdy := rfl
@[simp] theorem disableWriteCache_cstsShst : (disableWriteCache s).cstsShst = s.cstsShst := rfl
@[simp] theorem disableWriteCache_adminQ : (disableWriteCache s).adminQ = s.adminQ := rfl
@[simp] theorem disableWriteCache_ioqValid : (disableWriteCache s).ioqValid = s.ioqValid := rfl
@[simp] theorem disableWriteCache_rstCnt : (disableWriteCache s).rstCnt = s.rstCnt := rfl
@[simp] theorem disableWriteCache_flushTimerBase : (disableWriteCache s).flushTimerBase = s.flushTimerBase := rfl
@[simp] theorem disableWriteCache_trk1 : (disableWriteCache s).trk1 = s.trk1 := rfl
@[simp] theorem disableWriteCache_trk2 : (disableWriteCache s).trk2 = s.trk2 := rfl
@[simp] theorem disableWriteCache_cmd : (disableWriteCache s).cmd = s.cmd := rfl
@[simp] theorem disableWriteCache_runBg : (disableWriteCache s).runBg = s.runBg := rfl
@[simp] theorem disableWriteCache_inp : (disableWriteCache s).inp = s.inp := rfl
@[simp] theorem disableWriteCache_portResult : (disableWriteCache s).portResult = s.portResult := rfl
@[simp] theorem disableWriteCache_trace : (disableWriteCache s).trace = s.trace := rfl
@[simp] theorem disableWriteCache_hostq : (disableWriteCache s).hostq = s.hostq := rfl
@[simp] theorem disableWriteCache_script : (disableWriteCache s).script = s.script := rfl
@[simp] theorem disableWriteCache_drawNo : (disableWriteCache s).drawNo = s.drawNo := rfl

/-! ### defaultRunBg -/

@[simp] theorem defaultRunBg_params : (defaultRunBg s).params = s.params := rfl
@[simp] theorem defaultRunBg_booted : (defaultRunBg s).booted = s.booted := rfl
@[simp] theorem defaultRunBg_halted : (defaultRunBg s).halted = s.halted := rfl
@[simp] theorem defaultRunBg_faultCode : (defaultRunBg s).faultCode = s.faultCode := rfl
@[simp] theorem defaultRunBg_faultInfo : (defaultRunBg s).faultInfo = s.faultInfo := rfl
@[simp] theorem defaultRunBg_ctlState : (defaultRunBg s).ctlState = s.ctlState := rfl
@[simp] theorem defaultRunBg_cacheEn : (defaultRunBg s).cacheEn = s.cacheEn := rfl
@[simp] theorem defaultRunBg_cstsRdy : (defaultRunBg s).cstsRdy = s.cstsRdy := rfl
@[simp] theorem defaultRunBg_cstsShst : (defaultRunBg s).cstsShst = s.cstsShst := rfl
@[simp] theorem defaultRunBg_adminQ : (defaultRunBg s).adminQ = s.adminQ := rfl
@[simp] theorem defaultRunBg_ioqValid : (defaultRunBg s).ioqValid = s.ioqValid := rfl
@[simp] theorem defaultRunBg_rstCnt : (defaultRunBg s).rstCnt = s.rstCnt := rfl
@[simp] theorem defaultRunBg_flushTimerBase : (defaultRunBg s).flushTimerBase = s.flushTimerBase := rfl
@[simp] theorem defaultRunBg_trk1 : (defaultRunBg s).trk1 = s.trk1 := rfl
@[simp] theorem defaultRunBg_trk2 : (defaultRunBg s).trk2 = s.trk2 := rfl
@[simp] theorem defaultRunBg_cmd : (defaultRunBg s).cmd = s.cmd := rfl
@[simp] theorem defaultRunBg_runBg : (defaultRunBg s).runBg = true := rfl
@[simp] theorem defaultRunBg_inp : (defaultRunBg s).inp = s.inp := rfl
@[simp] theorem defaultRunBg_portResult : (defaultRunBg s).portResult = s.portResult := rfl
@[simp] theorem defaultRunBg_trace : (defaultRunBg s).trace = s.trace := rfl
@[simp] theorem defaultRunBg_hostq : (defaultRunBg s).hostq = s.hostq := rfl
@[simp] theorem defaultRunBg_script : (defaultRunBg s).script = s.script := rfl
@[simp] theorem defaultRunBg_drawNo : (defaultRunBg s).drawNo = s.drawNo := rfl

/-! ### releaseCommand -/

@[simp] theorem releaseCommand_params : (releaseCommand s).params = s.params := rfl
@[simp] theorem releaseCommand_booted : (releaseCommand s).booted = s.booted := rfl
@[simp] theorem releaseCommand_halted : (releaseCommand s).halted = s.halted := rfl
@[simp] theorem releaseCommand_faultCode : (releaseCommand s).faultCode = s.faultCode := rfl
@[simp] theorem releaseCommand_faultInfo : (releaseCommand s).faultInfo = s.faultInfo := rfl
@[simp] theorem releaseCommand_ctlState : (releaseCommand s).ctlState = s.ctlState := rfl
@[simp] theorem releaseCommand_cacheEn : (releaseCommand s).cacheEn = s.cacheEn := rfl
@[simp] theorem releaseCommand_cstsRdy : (releaseCommand s).cstsRdy = s.cstsRdy := rfl
@[simp] theorem releaseCommand_cstsShst : (releaseCommand s).cstsShst = s.cstsShst := rfl
@[simp] theorem releaseCommand_adminQ : (releaseCommand s).adminQ = s.adminQ := rfl
@[simp] theorem releaseCommand_ioqValid : (releaseCommand s).ioqValid = s.ioqValid := rfl
@[simp] theorem releaseCommand_rstCnt : (releaseCommand s).rstCnt = s.rstCnt := rfl
@[simp] theorem releaseCommand_flushTimerBase : (releaseCommand s).flushTimerBase = s.flushTimerBase := rfl
@[simp] theorem releaseCommand_trk1 : (releaseCommand s).trk1 = s.trk1 := rfl
@[simp] theorem releaseCommand_trk2 : (releaseCommand s).trk2 = s.trk2 := rfl
@[simp] theorem releaseCommand_cmd : (releaseCommand s).cmd = none := rfl
@[simp] theorem releaseCommand_runBg : (releaseCommand s).runBg = s.runBg := rfl
@[simp] theorem releaseCommand_inp : (releaseCommand s).inp = s.inp := rfl
@[simp] theorem releaseCommand_portResult : (releaseCommand s).portResult = s.portResult := rfl
@[simp] theorem releaseCommand_trace : (releaseCommand s).trace = s.trace := rfl
@[simp] theorem releaseCommand_hostq : (releaseCommand s).hostq = s.hostq := rfl
@[simp] theorem releaseCommand_script : (releaseCommand s).script = s.script := rfl
@[simp] theorem releaseCommand_drawNo : (releaseCommand s).drawNo = s.drawNo := rfl

/-! ### answerPort -/

@[simp] theorem answerPort_params (r : PortResult) : (answerPort r s).params = s.params := rfl
@[simp] theorem answerPort_booted (r : PortResult) : (answerPort r s).booted = s.booted := rfl
@[simp] theorem answerPort_halted (r : PortResult) : (answerPort r s).halted = s.halted := rfl
@[simp] theorem answerPort_faultCode (r : PortResult) : (answerPort r s).faultCode = s.faultCode := rfl
@[simp] theorem answerPort_faultInfo (r : PortResult) : (answerPort r s).faultInfo = s.faultInfo := rfl
@[simp] theorem answerPort_ctlState (r : PortResult) : (answerPort r s).ctlState = s.ctlState := rfl
@[simp] theorem answerPort_cacheEn (r : PortResult) : (answerPort r s).cacheEn = s.cacheEn := rfl
@[simp] theorem answerPort_cstsRdy (r : PortResult) : (answerPort r s).cstsRdy = s.cstsRdy := rfl
@[simp] theorem answerPort_cstsShst (r : PortResult) : (answerPort r s).cstsShst = s.cstsShst := rfl
@[simp] theorem answerPort_adminQ (r : PortResult) : (answerPort r s).adminQ = s.adminQ := rfl
@[simp] theorem answerPort_ioqValid (r : PortResult) : (answerPort r s).ioqValid = s.ioqValid := rfl
@[simp] theorem answerPort_rstCnt (r : PortResult) : (answerPort r s).rstCnt = s.rstCnt := rfl
@[simp] theorem answerPort_flushTimerBase (r : PortResult) : (answerPort r s).flushTimerBase = s.flushTimerBase := rfl
@[simp] theorem answerPort_trk1 (r : PortResult) : (answerPort r s).trk1 = s.trk1 := rfl
@[simp] theorem answerPort_trk2 (r : PortResult) : (answerPort r s).trk2 = s.trk2 := rfl
@[simp] theorem answerPort_cmd (r : PortResult) : (answerPort r s).cmd = s.cmd := rfl
@[simp] theorem answerPort_runBg (r : PortResult) : (answerPort r s).runBg = s.runBg := rfl
@[simp] theorem answerPort_inp (r : PortResult) : (answerPort r s).inp = s.inp := rfl
@[simp] theorem answerPort_portResult (r : PortResult) : (answerPort r s).portResult = r := rfl
@[simp] theorem answerPort_trace (r : PortResult) : (answerPort r s).trace = s.trace := rfl
@[simp] theorem answerPort_hostq (r : PortResult) : (answerPort r s).hostq = s.hostq := rfl
@[simp] theorem answerPort_script (r : PortResult) : (answerPort r s).script = s.script := rfl
@[simp] theorem answerPort_drawNo (r : PortResult) : (answerPort r s).drawNo = s.drawNo := rfl

/-! ### skipBackground -/

@[simp] theorem skipBackground_params (s : State) : (skipBackground s).params = s.params := rfl
@[simp] theorem skipBackground_booted (s : State) : (skipBackground s).booted = s.booted := rfl
@[simp] theorem skipBackground_halted (s : State) : (skipBackground s).halted = s.halted := rfl
@[simp] theorem skipBackground_faultCode (s : State) : (skipBackground s).faultCode = s.faultCode := rfl
@[simp] theorem skipBackground_faultInfo (s : State) : (skipBackground s).faultInfo = s.faultInfo := rfl
@[simp] theorem skipBackground_ctlState (s : State) : (skipBackground s).ctlState = s.ctlState := rfl
@[simp] theorem skipBackground_cacheEn (s : State) : (skipBackground s).cacheEn = s.cacheEn := rfl
@[simp] theorem skipBackground_cstsRdy (s : State) : (skipBackground s).cstsRdy = s.cstsRdy := rfl
@[simp] theorem skipBackground_cstsShst (s : State) : (skipBackground s).cstsShst = s.cstsShst := rfl
@[simp] theorem skipBackground_adminQ (s : State) : (skipBackground s).adminQ = s.adminQ := rfl
@[simp] theorem skipBackground_ioqValid (s : State) : (skipBackground s).ioqValid = s.ioqValid := rfl
@[simp] theorem skipBackground_rstCnt (s : State) : (skipBackground s).rstCnt = s.rstCnt := rfl
@[simp] theorem skipBackground_flushTimerBase (s : State) : (skipBackground s).flushTimerBase = s.flushTimerBase := rfl
@[simp] theorem skipBackground_trk1 (s : State) : (skipBackground s).trk1 = s.trk1 := rfl
@[simp] theorem skipBackground_trk2 (s : State) : (skipBackground s).trk2 = s.trk2 := rfl
@[simp] theorem skipBackground_cmd (s : State) : (skipBackground s).cmd = s.cmd := rfl
@[simp] theorem skipBackground_runBg (s : State) : (skipBackground s).runBg = false := rfl
@[simp] theorem skipBackground_inp (s : State) : (skipBackground s).inp = s.inp := rfl
@[simp] theorem skipBackground_portResult (s : State) : (skipBackground s).portResult = s.portResult := rfl
@[simp] theorem skipBackground_trace (s : State) : (skipBackground s).trace = s.trace := rfl
@[simp] theorem skipBackground_hostq (s : State) : (skipBackground s).hostq = s.hostq := rfl
@[simp] theorem skipBackground_script (s : State) : (skipBackground s).script = s.script := rfl
@[simp] theorem skipBackground_drawNo (s : State) : (skipBackground s).drawNo = s.drawNo := rfl

/-! ### setPushes -/

@[simp] theorem setPushes_params (ls : List (List PushReq)) : (setPushes ls s).params = s.params := rfl
@[simp] theorem setPushes_booted (ls : List (List PushReq)) : (setPushes ls s).booted = s.booted := rfl
@[simp] theorem setPushes_halted (ls : List (List PushReq)) : (setPushes ls s).halted = s.halted := rfl
@[simp] theorem setPushes_faultCode (ls : List (List PushReq)) : (setPushes ls s).faultCode = s.faultCode := rfl
@[simp] theorem setPushes_faultInfo (ls : List (List PushReq)) : (setPushes ls s).faultInfo = s.faultInfo := rfl
@[simp] theorem setPushes_ctlState (ls : List (List PushReq)) : (setPushes ls s).ctlState = s.ctlState := rfl
@[simp] theorem setPushes_cacheEn (ls : List (List PushReq)) : (setPushes ls s).cacheEn = s.cacheEn := rfl
@[simp] theorem setPushes_cstsRdy (ls : List (List PushReq)) : (setPushes ls s).cstsRdy = s.cstsRdy := rfl
@[simp] theorem setPushes_cstsShst (ls : List (List PushReq)) : (setPushes ls s).cstsShst = s.cstsShst := rfl
@[simp] theorem setPushes_adminQ (ls : List (List PushReq)) : (setPushes ls s).adminQ = s.adminQ := rfl
@[simp] theorem setPushes_ioqValid (ls : List (List PushReq)) : (setPushes ls s).ioqValid = s.ioqValid := rfl
@[simp] theorem setPushes_rstCnt (ls : List (List PushReq)) : (setPushes ls s).rstCnt = s.rstCnt := rfl
@[simp] theorem setPushes_flushTimerBase (ls : List (List PushReq)) : (setPushes ls s).flushTimerBase = s.flushTimerBase := rfl
@[simp] theorem setPushes_trk1 (ls : List (List PushReq)) : (setPushes ls s).trk1 = s.trk1 := rfl
@[simp] theorem setPushes_trk2 (ls : List (List PushReq)) : (setPushes ls s).trk2 = s.trk2 := rfl
@[simp] theorem setPushes_cmd (ls : List (List PushReq)) : (setPushes ls s).cmd = s.cmd := rfl
@[simp] theorem setPushes_runBg (ls : List (List PushReq)) : (setPushes ls s).runBg = s.runBg := rfl
@[simp] theorem setPushes_inp (ls : List (List PushReq)) : (setPushes ls s).inp = { s.inp with pushes := ls } := rfl
@[simp] theorem setPushes_portResult (ls : List (List PushReq)) : (setPushes ls s).portResult = s.portResult := rfl
@[simp] theorem setPushes_trace (ls : List (List PushReq)) : (setPushes ls s).trace = s.trace := rfl
@[simp] theorem setPushes_hostq (ls : List (List PushReq)) : (setPushes ls s).hostq = s.hostq := rfl
@[simp] theorem setPushes_script (ls : List (List PushReq)) : (setPushes ls s).script = s.script := rfl
@[simp] theorem setPushes_drawNo (ls : List (List PushReq)) : (setPushes ls s).drawNo = s.drawNo := rfl

/-! ### boot -/

@[simp] theorem boot_params : (boot s).params = s.params := rfl
@[simp] theorem boot_booted : (boot s).booted = true := rfl
@[simp] theorem boot_halted : (boot s).halted = s.halted := rfl
@[simp] theorem boot_faultCode : (boot s).faultCode = s.faultCode := rfl
@[simp] theorem boot_faultInfo : (boot s).faultInfo = s.faultInfo := rfl
@[simp] theorem boot_ctlState : (boot s).ctlState = s.ctlState := rfl
@[simp] theorem boot_cacheEn : (boot s).cacheEn = s.cacheEn := rfl
@[simp] theorem boot_cstsRdy : (boot s).cstsRdy = s.cstsRdy := rfl
@[simp] theorem boot_cstsShst : (boot s).cstsShst = s.cstsShst := rfl
@[simp] theorem boot_adminQ : (boot s).adminQ = s.adminQ := rfl
@[simp] theorem boot_ioqValid : (boot s).ioqValid = s.ioqValid := rfl
@[simp] theorem boot_rstCnt : (boot s).rstCnt = s.rstCnt := rfl
@[simp] theorem boot_flushTimerBase : (boot s).flushTimerBase = s.flushTimerBase := rfl
@[simp] theorem boot_trk1 : (boot s).trk1 = s.trk1 := rfl
@[simp] theorem boot_trk2 : (boot s).trk2 = s.trk2 := rfl
@[simp] theorem boot_cmd : (boot s).cmd = s.cmd := rfl
@[simp] theorem boot_runBg : (boot s).runBg = s.runBg := rfl
@[simp] theorem boot_inp : (boot s).inp = s.inp := rfl
@[simp] theorem boot_portResult : (boot s).portResult = s.portResult := rfl
@[simp] theorem boot_trace : (boot s).trace = [.initFtl] := rfl
@[simp] theorem boot_hostq : (boot s).hostq = s.hostq := rfl
@[simp] theorem boot_script : (boot s).script = s.script := rfl
@[simp] theorem boot_drawNo : (boot s).drawNo = s.drawNo := rfl

/-! ### clearIoQueuePairs -/

@[simp] theorem clearIoQueuePairs_params : (clearIoQueuePairs s).params = s.params := by simp [clearIoQueuePairs]
@[simp] theorem clearIoQueuePairs_booted : (clearIoQueuePairs s).booted = s.booted := by simp [clearIoQueuePairs]
@[simp] theorem clearIoQueuePairs_halted : (clearIoQueuePairs s).halted = s.halted := by simp [clearIoQueuePairs]
@[simp] theorem clearIoQueuePairs_faultCode : (clearIoQueuePairs s).faultCode = s.faultCode := by simp [clearIoQueuePairs]
@[simp] theorem clearIoQueuePairs_faultInfo : (clearIoQueuePairs s).faultInfo = s.faultInfo := by simp [clearIoQueuePairs]
@[simp] theorem clearIoQueuePairs_ctlState : (clearIoQueuePairs s).ctlState = s.ctlState := by simp [clearIoQueuePairs]
@[simp] theorem clearIoQueuePairs_cacheEn : (clearIoQueuePairs s).cacheEn = s.cacheEn := by simp [clearIoQueuePairs]
@[simp] theorem clearIoQueuePairs_cstsRdy : (clearIoQueuePairs s).cstsRdy = s.cstsRdy := by simp [clearIoQueuePairs]
@[simp] theorem clearIoQueuePairs_cstsShst : (clearIoQueuePairs s).cstsShst = s.cstsShst := by simp [clearIoQueuePairs]
@[simp] theorem clearIoQueuePairs_adminQ : (clearIoQueuePairs s).adminQ = s.adminQ := by simp [clearIoQueuePairs]
@[simp] theorem clearIoQueuePairs_rstCnt : (clearIoQueuePairs s).rstCnt = s.rstCnt := by simp [clearIoQueuePairs]
@[simp] theorem clearIoQueuePairs_flushTimerBase : (clearIoQueuePairs s).flushTimerBase = s.flushTimerBase := by simp [clearIoQueuePairs]
@[simp] theorem clearIoQueuePairs_trk1 : (clearIoQueuePairs s).trk1 = s.trk1 := by simp [clearIoQueuePairs]
@[simp] theorem clearIoQueuePairs_trk2 : (clearIoQueuePairs s).trk2 = s.trk2 := by simp [clearIoQueuePairs]
@[simp] theorem clearIoQueuePairs_cmd : (clearIoQueuePairs s).cmd = s.cmd := by simp [clearIoQueuePairs]
@[simp] theorem clearIoQueuePairs_runBg : (clearIoQueuePairs s).runBg = s.runBg := by simp [clearIoQueuePairs]
@[simp] theorem clearIoQueuePairs_inp : (clearIoQueuePairs s).inp = s.inp := by simp [clearIoQueuePairs]
@[simp] theorem clearIoQueuePairs_portResult : (clearIoQueuePairs s).portResult = s.portResult := by simp [clearIoQueuePairs]
@[simp] theorem clearIoQueuePairs_hostq : (clearIoQueuePairs s).hostq = s.hostq := by simp [clearIoQueuePairs]
@[simp] theorem clearIoQueuePairs_script : (clearIoQueuePairs s).script = s.script := by simp [clearIoQueuePairs]
@[simp] theorem clearIoQueuePairs_drawNo : (clearIoQueuePairs s).drawNo = s.drawNo := by simp [clearIoQueuePairs]
@[simp] theorem clearIoQueuePairs_ioqValid : (clearIoQueuePairs s).ioqValid = Vector.replicate 8 false := by
  simp only [clearIoQueuePairs, List.foldl, clearIoQueuePair_ioqValid]
  ext i hi
  simp only [Vector.getElem_set, Vector.getElem_replicate]
  repeat' (split; · rfl)
  simp at *; omega
@[simp] theorem clearIoQueuePairs_trace : (clearIoQueuePairs s).trace = s.trace ++ clearActions.dropLast := by
  simp [clearIoQueuePairs, clearActions]

/-! ### teardownQueues -/

@[simp] theorem teardownQueues_params : (teardownQueues s).params = s.params := by simp [teardownQueues]
@[simp] theorem teardownQueues_booted : (teardownQueues s).booted = s.booted := by simp [teardownQueues]
@[simp] theorem teardownQueues_halted : (teardownQueues s).halted = s.halted := by simp [teardownQueues]
@[simp] theorem teardownQueues_faultCode : (teardownQueues s).faultCode = s.faultCode := by simp [teardownQueues]
@[simp] theorem teardownQueues_faultInfo : (teardownQueues s).faultInfo = s.faultInfo := by simp [teardownQueues]
@[simp] theorem teardownQueues_ctlState : (teardownQueues s).ctlState = s.ctlState := by simp [teardownQueues]
@[simp] theorem teardownQueues_cacheEn : (teardownQueues s).cacheEn = s.cacheEn := by simp [teardownQueues]
@[simp] theorem teardownQueues_cstsRdy : (teardownQueues s).cstsRdy = s.cstsRdy := by simp [teardownQueues]
@[simp] theorem teardownQueues_cstsShst : (teardownQueues s).cstsShst = s.cstsShst := by simp [teardownQueues]
@[simp] theorem teardownQueues_rstCnt : (teardownQueues s).rstCnt = s.rstCnt := by simp [teardownQueues]
@[simp] theorem teardownQueues_flushTimerBase : (teardownQueues s).flushTimerBase = s.flushTimerBase := by simp [teardownQueues]
@[simp] theorem teardownQueues_trk1 : (teardownQueues s).trk1 = s.trk1 := by simp [teardownQueues]
@[simp] theorem teardownQueues_trk2 : (teardownQueues s).trk2 = s.trk2 := by simp [teardownQueues]
@[simp] theorem teardownQueues_cmd : (teardownQueues s).cmd = s.cmd := by simp [teardownQueues]
@[simp] theorem teardownQueues_runBg : (teardownQueues s).runBg = s.runBg := by simp [teardownQueues]
@[simp] theorem teardownQueues_inp : (teardownQueues s).inp = s.inp := by simp [teardownQueues]
@[simp] theorem teardownQueues_portResult : (teardownQueues s).portResult = s.portResult := by simp [teardownQueues]
@[simp] theorem teardownQueues_hostq : (teardownQueues s).hostq = s.hostq := by simp [teardownQueues]
@[simp] theorem teardownQueues_script : (teardownQueues s).script = s.script := by simp [teardownQueues]
@[simp] theorem teardownQueues_drawNo : (teardownQueues s).drawNo = s.drawNo := by simp [teardownQueues]
@[simp] theorem teardownQueues_ioqValid : (teardownQueues s).ioqValid = Vector.replicate 8 false := by simp [teardownQueues]
@[simp] theorem teardownQueues_adminQ : (teardownQueues s).adminQ = .cleared := rfl
@[simp] theorem teardownQueues_trace : (teardownQueues s).trace = s.trace ++ clearActions := by simp [teardownQueues, clearActions]

/-! ### shutdownTeardown -/

@[simp] theorem shutdownTeardown_params : (shutdownTeardown s).params = s.params := by simp [shutdownTeardown]
@[simp] theorem shutdownTeardown_booted : (shutdownTeardown s).booted = s.booted := by simp [shutdownTeardown]
@[simp] theorem shutdownTeardown_halted : (shutdownTeardown s).halted = s.halted := by simp [shutdownTeardown]
@[simp] theorem shutdownTeardown_faultCode : (shutdownTeardown s).faultCode = s.faultCode := by simp [shutdownTeardown]
@[simp] theorem shutdownTeardown_faultInfo : (shutdownTeardown s).faultInfo = s.faultInfo := by simp [shutdownTeardown]
@[simp] theorem shutdownTeardown_ctlState : (shutdownTeardown s).ctlState = s.ctlState := by simp [shutdownTeardown]
@[simp] theorem shutdownTeardown_cstsRdy : (shutdownTeardown s).cstsRdy = s.cstsRdy := by simp [shutdownTeardown]
@[simp] theorem shutdownTeardown_rstCnt : (shutdownTeardown s).rstCnt = s.rstCnt := by simp [shutdownTeardown]
@[simp] theorem shutdownTeardown_flushTimerBase : (shutdownTeardown s).flushTimerBase = s.flushTimerBase := by simp [shutdownTeardown]
@[simp] theorem shutdownTeardown_trk1 : (shutdownTeardown s).trk1 = s.trk1 := by simp [shutdownTeardown]
@[simp] theorem shutdownTeardown_trk2 : (shutdownTeardown s).trk2 = s.trk2 := by simp [shutdownTeardown]
@[simp] theorem shutdownTeardown_cmd : (shutdownTeardown s).cmd = s.cmd := by simp [shutdownTeardown]
@[simp] theorem shutdownTeardown_runBg : (shutdownTeardown s).runBg = s.runBg := by simp [shutdownTeardown]
@[simp] theorem shutdownTeardown_inp : (shutdownTeardown s).inp = s.inp := by simp [shutdownTeardown]
@[simp] theorem shutdownTeardown_portResult : (shutdownTeardown s).portResult = s.portResult := by simp [shutdownTeardown]
@[simp] theorem shutdownTeardown_hostq : (shutdownTeardown s).hostq = s.hostq := by simp [shutdownTeardown]
@[simp] theorem shutdownTeardown_script : (shutdownTeardown s).script = s.script := by simp [shutdownTeardown]
@[simp] theorem shutdownTeardown_drawNo : (shutdownTeardown s).drawNo = s.drawNo := by simp [shutdownTeardown]
@[simp] theorem shutdownTeardown_ioqValid : (shutdownTeardown s).ioqValid = Vector.replicate 8 false := by simp [shutdownTeardown]
@[simp] theorem shutdownTeardown_adminQ : (shutdownTeardown s).adminQ = .cleared := rfl
@[simp] theorem shutdownTeardown_cacheEn : (shutdownTeardown s).cacheEn = false := rfl
@[simp] theorem shutdownTeardown_cstsShst : (shutdownTeardown s).cstsShst = 2#2 := rfl
@[simp] theorem shutdownTeardown_trace : (shutdownTeardown s).trace = s.trace ++ clearActions ++
    [.writeCstsShst 1#2, .writeCstsShst 2#2, .persistGrownBadBlockTable s.params.bbtBufBase] := by simp [shutdownTeardown]

/-! ### resetVisit -/

@[simp] theorem resetVisit_params : (resetVisit s).params = s.params := by simp [resetVisit]
@[simp] theorem resetVisit_booted : (resetVisit s).booted = s.booted := by simp [resetVisit]
@[simp] theorem resetVisit_halted : (resetVisit s).halted = s.halted := by simp [resetVisit]
@[simp] theorem resetVisit_faultCode : (resetVisit s).faultCode = s.faultCode := by simp [resetVisit]
@[simp] theorem resetVisit_faultInfo : (resetVisit s).faultInfo = s.faultInfo := by simp [resetVisit]
@[simp] theorem resetVisit_ctlState : (resetVisit s).ctlState = s.ctlState := by simp [resetVisit]
@[simp] theorem resetVisit_rstCnt : (resetVisit s).rstCnt = s.rstCnt := by simp [resetVisit]
@[simp] theorem resetVisit_flushTimerBase : (resetVisit s).flushTimerBase = s.flushTimerBase := by simp [resetVisit]
@[simp] theorem resetVisit_trk1 : (resetVisit s).trk1 = s.trk1 := by simp [resetVisit]
@[simp] theorem resetVisit_trk2 : (resetVisit s).trk2 = s.trk2 := by simp [resetVisit]
@[simp] theorem resetVisit_cmd : (resetVisit s).cmd = s.cmd := by simp [resetVisit]
@[simp] theorem resetVisit_runBg : (resetVisit s).runBg = s.runBg := by simp [resetVisit]
@[simp] theorem resetVisit_inp : (resetVisit s).inp = s.inp := by simp [resetVisit]
@[simp] theorem resetVisit_portResult : (resetVisit s).portResult = s.portResult := by simp [resetVisit]
@[simp] theorem resetVisit_hostq : (resetVisit s).hostq = s.hostq := by simp [resetVisit]
@[simp] theorem resetVisit_script : (resetVisit s).script = s.script := by simp [resetVisit]
@[simp] theorem resetVisit_drawNo : (resetVisit s).drawNo = s.drawNo := by simp [resetVisit]
@[simp] theorem resetVisit_ioqValid : (resetVisit s).ioqValid = Vector.replicate 8 false := by simp [resetVisit]
@[simp] theorem resetVisit_adminQ : (resetVisit s).adminQ = .cleared := rfl
@[simp] theorem resetVisit_cacheEn : (resetVisit s).cacheEn = false := rfl
@[simp] theorem resetVisit_cstsShst : (resetVisit s).cstsShst = 0#2 := rfl
@[simp] theorem resetVisit_cstsRdy : (resetVisit s).cstsRdy = false := rfl
@[simp] theorem resetVisit_trace : (resetVisit s).trace = s.trace ++ clearActions ++
    [.writeCstsShst 0#2, .writeCstsRdy false] := by simp [resetVisit]

/-! ### setTrk -/

@[simp] theorem setTrk_params (k : StreamId) (b : BarrierStream) : (setTrk k b s).params = s.params := by cases k <;> rfl
@[simp] theorem setTrk_booted (k : StreamId) (b : BarrierStream) : (setTrk k b s).booted = s.booted := by cases k <;> rfl
@[simp] theorem setTrk_halted (k : StreamId) (b : BarrierStream) : (setTrk k b s).halted = s.halted := by cases k <;> rfl
@[simp] theorem setTrk_faultCode (k : StreamId) (b : BarrierStream) : (setTrk k b s).faultCode = s.faultCode := by cases k <;> rfl
@[simp] theorem setTrk_faultInfo (k : StreamId) (b : BarrierStream) : (setTrk k b s).faultInfo = s.faultInfo := by cases k <;> rfl
@[simp] theorem setTrk_ctlState (k : StreamId) (b : BarrierStream) : (setTrk k b s).ctlState = s.ctlState := by cases k <;> rfl
@[simp] theorem setTrk_cacheEn (k : StreamId) (b : BarrierStream) : (setTrk k b s).cacheEn = s.cacheEn := by cases k <;> rfl
@[simp] theorem setTrk_cstsRdy (k : StreamId) (b : BarrierStream) : (setTrk k b s).cstsRdy = s.cstsRdy := by cases k <;> rfl
@[simp] theorem setTrk_cstsShst (k : StreamId) (b : BarrierStream) : (setTrk k b s).cstsShst = s.cstsShst := by cases k <;> rfl
@[simp] theorem setTrk_adminQ (k : StreamId) (b : BarrierStream) : (setTrk k b s).adminQ = s.adminQ := by cases k <;> rfl
@[simp] theorem setTrk_ioqValid (k : StreamId) (b : BarrierStream) : (setTrk k b s).ioqValid = s.ioqValid := by cases k <;> rfl
@[simp] theorem setTrk_rstCnt (k : StreamId) (b : BarrierStream) : (setTrk k b s).rstCnt = s.rstCnt := by cases k <;> rfl
@[simp] theorem setTrk_flushTimerBase (k : StreamId) (b : BarrierStream) : (setTrk k b s).flushTimerBase = s.flushTimerBase := by cases k <;> rfl
@[simp] theorem setTrk_cmd (k : StreamId) (b : BarrierStream) : (setTrk k b s).cmd = s.cmd := by cases k <;> rfl
@[simp] theorem setTrk_runBg (k : StreamId) (b : BarrierStream) : (setTrk k b s).runBg = s.runBg := by cases k <;> rfl
@[simp] theorem setTrk_inp (k : StreamId) (b : BarrierStream) : (setTrk k b s).inp = s.inp := by cases k <;> rfl
@[simp] theorem setTrk_portResult (k : StreamId) (b : BarrierStream) : (setTrk k b s).portResult = s.portResult := by cases k <;> rfl
@[simp] theorem setTrk_trace (k : StreamId) (b : BarrierStream) : (setTrk k b s).trace = s.trace := by cases k <;> rfl
@[simp] theorem setTrk_hostq (k : StreamId) (b : BarrierStream) : (setTrk k b s).hostq = s.hostq := by cases k <;> rfl
@[simp] theorem setTrk_script (k : StreamId) (b : BarrierStream) : (setTrk k b s).script = s.script := by cases k <;> rfl
@[simp] theorem setTrk_drawNo (k : StreamId) (b : BarrierStream) : (setTrk k b s).drawNo = s.drawNo := by cases k <;> rfl

@[simp] theorem trk_setTrk_same (k : StreamId) (b : BarrierStream) : trk (setTrk k b s) k = b := by cases k <;> rfl

@[simp] theorem trk_emit (a : Action) (k : StreamId) : trk (emit a s) k = trk s k := by cases k <;> rfl

@[simp] theorem trk_answerPort (r : PortResult) (k : StreamId) : trk (answerPort r s) k = trk s k := by cases k <;> rfl
@[simp] theorem trk_skipBackground (s : State) (k : StreamId) : trk (skipBackground s) k = trk s k := by cases k <;> rfl
@[simp] theorem trk_setPushes (ls : List (List PushReq)) (k : StreamId) : trk (setPushes ls s) k = trk s k := by cases k <;> rfl

@[simp] theorem trk_raiseFault (c : FaultCode) (i : FaultInfo) (k : StreamId) : trk (raiseFault c i s) k = trk s k := by cases k <;> rfl

theorem trk_setTrk_other {j k : StreamId} (h : j ≠ k) (b : BarrierStream) : trk (setTrk k b s) j = trk s j := by
  cases j <;> cases k <;> first | rfl | exact absurd rfl h

theorem setTrk_one (b : BarrierStream) : setTrk .one b s = { s with trk1 := b } := rfl

theorem setTrk_two (b : BarrierStream) : setTrk .two b s = { s with trk2 := b } := rfl

/-! ### Streams and their identifiers -/

@[simp] theorem streamOf_streamWord (k : StreamId) : streamOf (streamWord k) = some k := by cases k <;> decide

theorem streamOf_eq_some {w : Word} {k : StreamId} (h : streamOf w = some k) : w = streamWord k := by
  unfold streamOf at h
  split at h
  · cases h; assumption
  · split at h
    · cases h; assumption
    · cases h

theorem streamOf_eq_none {w : Word} : streamOf w = none ↔ w ≠ 1#32 ∧ w ≠ 2#32 := by
  unfold streamOf; split <;> simp_all

/-! ### Sequencing -/

@[simp] theorem andThen_of_running (f : State → State) (h : s.halted = false) : andThen s f = f s := by simp [andThen, h]

@[simp] theorem andThen_of_halted (f : State → State) (h : s.halted = true) : andThen s f = s := by simp [andThen, h]

theorem attempt_of_running (f : State → Host.Outcome State Fault Refusal) (h : s.halted = false) : attempt s f = f s := by
  simp [attempt, h]

theorem attempt_of_halted (f : State → Host.Outcome State Fault Refusal) (h : s.halted = true) :
    attempt s f = .fault (.halted s.faultCode s.faultInfo) := by simp [attempt, h]

theorem attempt_eq_next {s t : State} {f : State → Host.Outcome State Fault Refusal} :
    attempt s f = .next t ↔ s.halted = false ∧ f s = .next t := by
  unfold attempt; cases h : s.halted <;> simp

@[simp] theorem perform_of_running (f : State → State) (h : s.halted = false) : perform s f = .next (f s) := by
  simp [perform, attempt, h]

@[simp] theorem perform_of_halted (f : State → State) (h : s.halted = true) :
    perform s f = .fault (.halted s.faultCode s.faultInfo) := by simp [perform, attempt, h]

theorem perform_eq_next {s t : State} {f : State → State} : perform s f = .next t ↔ s.halted = false ∧ f s = t := by
  unfold perform attempt; cases h : s.halted <;> simp

theorem onNext_eq_next {o : Host.Outcome State Fault Refusal} {f : State → Host.Outcome State Fault Refusal} {t : State} :
    onNext o f = .next t ↔ ∃ u, o = .next u ∧ f u = .next t := by
  cases o <;> simp [onNext]

@[simp] theorem onNext_fault (r : Fault) (f : State → Host.Outcome State Fault Refusal) :
    onNext (.fault r) f = .fault r := rfl

@[simp] theorem onNext_next (f : State → Host.Outcome State Fault Refusal) : onNext (.next s) f = f s := rfl

end Sys2Proof.Machine
end

