-- ==== Sys2Proof/Laws/Ops.lean ====
section
/-! SUPPORT. What each shared operation can do, said once: taking a fault, the tracker operations, the PUSHes at a return, the
storage-pipeline calls and the admin handler. -/

namespace Sys2Proof.Machine

variable {s t u : State}

/-! ### The frame of a storage-pipeline call -/

theorem PipelineFrame.refl (s : State) : PipelineFrame s s := rfl

theorem PipelineFrame.eq (h : PipelineFrame s t) :
    t = { s with
          trk1 := t.trk1, trk2 := t.trk2, halted := t.halted, faultCode := t.faultCode, faultInfo := t.faultInfo,
          trace := t.trace, inp := { s.inp with pushes := t.inp.pushes } } := h

theorem PipelineFrame.params (h : PipelineFrame s t) : t.params = s.params := (congrArg State.params h.eq).trans rfl
theorem PipelineFrame.booted (h : PipelineFrame s t) : t.booted = s.booted := (congrArg State.booted h.eq).trans rfl
theorem PipelineFrame.ctlState (h : PipelineFrame s t) : t.ctlState = s.ctlState := (congrArg State.ctlState h.eq).trans rfl
theorem PipelineFrame.cacheEn (h : PipelineFrame s t) : t.cacheEn = s.cacheEn := (congrArg State.cacheEn h.eq).trans rfl
theorem PipelineFrame.cstsRdy (h : PipelineFrame s t) : t.cstsRdy = s.cstsRdy := (congrArg State.cstsRdy h.eq).trans rfl
theorem PipelineFrame.cstsShst (h : PipelineFrame s t) : t.cstsShst = s.cstsShst := (congrArg State.cstsShst h.eq).trans rfl
theorem PipelineFrame.adminQ (h : PipelineFrame s t) : t.adminQ = s.adminQ := (congrArg State.adminQ h.eq).trans rfl
theorem PipelineFrame.ioqValid (h : PipelineFrame s t) : t.ioqValid = s.ioqValid := (congrArg State.ioqValid h.eq).trans rfl
theorem PipelineFrame.rstCnt (h : PipelineFrame s t) : t.rstCnt = s.rstCnt := (congrArg State.rstCnt h.eq).trans rfl
theorem PipelineFrame.flushTimerBase (h : PipelineFrame s t) : t.flushTimerBase = s.flushTimerBase := (congrArg State.flushTimerBase h.eq).trans rfl
theorem PipelineFrame.cmd (h : PipelineFrame s t) : t.cmd = s.cmd := (congrArg State.cmd h.eq).trans rfl
theorem PipelineFrame.runBg (h : PipelineFrame s t) : t.runBg = s.runBg := (congrArg State.runBg h.eq).trans rfl
theorem PipelineFrame.portResult (h : PipelineFrame s t) : t.portResult = s.portResult := (congrArg State.portResult h.eq).trans rfl
theorem PipelineFrame.hostq (h : PipelineFrame s t) : t.hostq = s.hostq := (congrArg State.hostq h.eq).trans rfl
theorem PipelineFrame.script (h : PipelineFrame s t) : t.script = s.script := (congrArg State.script h.eq).trans rfl
theorem PipelineFrame.drawNo (h : PipelineFrame s t) : t.drawNo = s.drawNo := (congrArg State.drawNo h.eq).trans rfl

theorem PipelineFrame.inp_resetForce (h : PipelineFrame s t) : t.inp.resetForce = s.inp.resetForce := (congrArg (fun u => u.inp.resetForce) h.eq).trans rfl
theorem PipelineFrame.inp_enableEvt (h : PipelineFrame s t) : t.inp.enableEvt = s.inp.enableEvt := (congrArg (fun u => u.inp.enableEvt) h.eq).trans rfl
theorem PipelineFrame.inp_ccEn (h : PipelineFrame s t) : t.inp.ccEn = s.inp.ccEn := (congrArg (fun u => u.inp.ccEn) h.eq).trans rfl
theorem PipelineFrame.inp_ccShn (h : PipelineFrame s t) : t.inp.ccShn = s.inp.ccShn := (congrArg (fun u => u.inp.ccShn) h.eq).trans rfl
theorem PipelineFrame.inp_dmaPending (h : PipelineFrame s t) : t.inp.dmaPending = s.inp.dmaPending := (congrArg (fun u => u.inp.dmaPending) h.eq).trans rfl
theorem PipelineFrame.inp_nandOutstanding (h : PipelineFrame s t) : t.inp.nandOutstanding = s.inp.nandOutstanding := (congrArg (fun u => u.inp.nandOutstanding) h.eq).trans rfl
theorem PipelineFrame.inp_reqBlocked (h : PipelineFrame s t) : t.inp.reqBlocked = s.inp.reqBlocked := (congrArg (fun u => u.inp.reqBlocked) h.eq).trans rfl
theorem PipelineFrame.inp_timerNow (h : PipelineFrame s t) : t.inp.timerNow = s.inp.timerNow := (congrArg (fun u => u.inp.timerNow) h.eq).trans rfl
theorem PipelineFrame.inp_arrivals (h : PipelineFrame s t) : t.inp.arrivals = s.inp.arrivals := (congrArg (fun u => u.inp.arrivals) h.eq).trans rfl
theorem PipelineFrame.inp_fetch (h : PipelineFrame s t) : t.inp.fetch = s.inp.fetch := (congrArg (fun u => u.inp.fetch) h.eq).trans rfl
theorem PipelineFrame.inp_pushesNeverEnd (h : PipelineFrame s t) : t.inp.pushesNeverEnd = s.inp.pushesNeverEnd :=
  (congrArg (fun u => u.inp.pushesNeverEnd) h.eq).trans rfl
theorem PipelineFrame.inp_handler (h : PipelineFrame s t) : t.inp.handler = s.inp.handler := (congrArg (fun u => u.inp.handler) h.eq).trans rfl

theorem PipelineFrame.trans (h : PipelineFrame s t) (h' : PipelineFrame t u) : PipelineFrame s u := by
  unfold PipelineFrame at *
  rw [h] at h'
  exact h'

theorem PipelineFrame.andThen {f : State → State} (h : PipelineFrame s t) (hf : PipelineFrame t (f t)) :
    PipelineFrame s (andThen t f) := by
  unfold Machine.andThen
  split
  · exact h
  · exact h.trans hf

theorem emit_frame (a : Action) (s : State) : PipelineFrame s (emit a s) := rfl

theorem raiseFault_frame (c : FaultCode) (i : FaultInfo) (s : State) : PipelineFrame s (raiseFault c i s) := rfl

theorem setTrk_frame (k : StreamId) (b : BarrierStream) (s : State) : PipelineFrame s (setTrk k b s) := by cases k <;> rfl

/-! ### The tracker operations -/

/-- PUSH on a stream that does not exist. -/
theorem trkPush_badStream {w : Word} (h : streamOf w = none) (e : Epoch) (s : State) :
    trkPush w e s = raiseFault .trkBadStream (.word w) s := by simp [trkPush, h]

/-- PUSH on a full stream. -/
theorem trkPush_full {k : StreamId} (h : capacityExceeded s.params.capCheck (trk s k).count = true) (e : Epoch) :
    trkPush (streamWord k) e s = raiseFault .trkFull (.word (streamWord k)) s := by simp [trkPush, h]

/-- PUSH on a stream with room. -/
theorem trkPush_append {k : StreamId} (h : capacityExceeded s.params.capCheck (trk s k).count = false) (e : Epoch) :
    trkPush (streamWord k) e s = setTrk k ((trk s k).append s.params.epochInvalid e) s := by simp [trkPush, h]

/-- Everything PUSH can do. -/
theorem trkPush_cases (w : Word) (e : Epoch) (s : State) :
    (streamOf w = none ∧ trkPush w e s = raiseFault .trkBadStream (.word w) s) ∨
    (∃ k, w = streamWord k ∧ capacityExceeded s.params.capCheck (trk s k).count = true ∧
      trkPush w e s = raiseFault .trkFull (.word w) s) ∨
    (∃ k, w = streamWord k ∧ capacityExceeded s.params.capCheck (trk s k).count = false ∧
      trkPush w e s = setTrk k ((trk s k).append s.params.epochInvalid e) s) := by
  cases h : streamOf w with
  | none => exact .inl ⟨rfl, trkPush_badStream h e s⟩
  | some k =>
    obtain rfl := streamOf_eq_some h
    cases hc : capacityExceeded s.params.capCheck (trk s k).count with
    | true => exact .inr (.inl ⟨k, rfl, hc, trkPush_full hc e⟩)
    | false => exact .inr (.inr ⟨k, rfl, hc, trkPush_append hc e⟩)

/-- POP on a stream that does not exist. -/
theorem trkPop_badStream {w : Word} (h : streamOf w = none) (s : State) :
    trkPop w s = (raiseFault .trkBadStream (.word w) s, none) := by simp [trkPop, h]

/-- POP on an empty stream. -/
theorem trkPop_empty {k : StreamId} (h : (trk s k).count = 0) :
    trkPop (streamWord k) s = (raiseFault .trkEmpty (.word (streamWord k)) s, none) := by simp [trkPop, h]

/-- POP on a stream that holds an epoch. -/
theorem trkPop_head {k : StreamId} (h : (trk s k).count ≠ 0) :
    trkPop (streamWord k) s =
      (setTrk k ((trk s k).dropHead s.params.epochInvalid) s,
        some ((trk s k).buf.read s.params.epochInvalid (trk s k).head)) := by simp [trkPop, h]

theorem trkPush_frame (w : Word) (e : Epoch) (s : State) : PipelineFrame s (trkPush w e s) := by
  rcases trkPush_cases w e s with ⟨_, h⟩ | ⟨_, _, _, h⟩ | ⟨_, _, _, h⟩ <;> rw [h]
  · exact raiseFault_frame _ _ _
  · exact raiseFault_frame _ _ _
  · exact setTrk_frame _ _ _

@[simp] theorem trkPush_trace (w : Word) (e : Epoch) (s : State) : (trkPush w e s).trace = s.trace := by
  rcases trkPush_cases w e s with ⟨_, h⟩ | ⟨_, _, _, h⟩ | ⟨_, _, _, h⟩ <;> simp [h]

@[simp] theorem trkPush_inp (w : Word) (e : Epoch) (s : State) : (trkPush w e s).inp = s.inp := by
  rcases trkPush_cases w e s with ⟨_, h⟩ | ⟨_, _, _, h⟩ | ⟨_, _, _, h⟩ <;> simp [h]

/-- A PUSH adds at most one epoch to a stream. -/
theorem trkPush_count_le (w : Word) (e : Epoch) (s : State) (k : StreamId) :
    (trk (trkPush w e s) k).count ≤ (trk s k).count + 1 := by
  rcases trkPush_cases w e s with ⟨_, h⟩ | ⟨_, _, _, h⟩ | ⟨j, _, _, h⟩ <;> rw [h]
  · simp
  · simp
  · by_cases hjk : k = j
    · subst hjk; simp [BarrierStream.append]
    · rw [trk_setTrk_other s hjk]; omega

/-! ### The PUSHes at a return -/

@[simp] theorem pushAll_nil (s : State) : pushAll [] s = s := rfl

theorem pushAll_cons (r : PushReq) (rs : List PushReq) (s : State) :
    pushAll (r :: rs) s = andThen (trkPush r.stream r.epoch s) (pushAll rs) := rfl

/-- What every PUSH on a running block keeps, a list of PUSHes on a running block keeps. -/
theorem pushAll_keeps (P : State → Prop)
    (hp : ∀ w e v, v.halted = false → P v → P (trkPush w e v)) (rs : List PushReq) (s : State)
    (hs : s.halted = false) (h : P s) : P (pushAll rs s) := by
  induction rs generalizing s with
  | nil => exact h
  | cons r rs ih =>
    rw [pushAll_cons]
    have h1 := hp r.stream r.epoch s hs h
    cases hh : (trkPush r.stream r.epoch s).halted with
    | true => rwa [andThen_of_halted _ _ hh]
    | false => rw [andThen_of_running _ _ hh]; exact ih _ hh h1

theorem pushAll_frame (rs : List PushReq) (s : State) : PipelineFrame s (pushAll rs s) := by
  induction rs generalizing s with
  | nil => exact .refl s
  | cons r rs ih => exact (trkPush_frame r.stream r.epoch s).andThen (ih _)

@[simp] theorem pushAll_trace (rs : List PushReq) (s : State) : (pushAll rs s).trace = s.trace := by
  induction rs generalizing s with
  | nil => rfl
  | cons r rs ih => rw [pushAll_cons, andThen]; split <;> simp [ih]

@[simp] theorem pushAll_inp (rs : List PushReq) (s : State) : (pushAll rs s).inp = s.inp := by
  induction rs generalizing s with
  | nil => rfl
  | cons r rs ih => rw [pushAll_cons, andThen]; split <;> simp [ih]

/-! ### Storage-pipeline calls -/

/-- A call at whose return the environment pushes nothing. -/
theorem callPipeline_quiet (a : Action) (h : s.inp.pushes = []) : callPipeline a s = emit a s := by
  simp [callPipeline, h]

/-- A call at whose return the environment performs the PUSHes `l`. -/
theorem callPipeline_pushes (a : Action) {l : List PushReq} {ls : List (List PushReq)} (h : s.inp.pushes = l :: ls) :
    callPipeline a s = pushAll l (setPushes ls (emit a s)) := by
  simp [callPipeline, h]

/-- Everything a call does: the action is emitted, and the environment's next PUSH list, if there is one, is performed. -/
theorem callPipeline_eq (a : Action) (s : State) :
    callPipeline a s = pushAll (s.inp.pushes.headD []) { s with
      trace := s.trace ++ [a], inp := { s.inp with pushes := s.inp.pushes.tail } } := by
  cases h : s.inp.pushes with
  | nil => rw [callPipeline_quiet a h, List.headD_nil, List.tail_nil, ← h]; rfl
  | cons l ls => rw [callPipeline_pushes a h]; rfl

theorem callPipeline_frame (a : Action) (s : State) : PipelineFrame s (callPipeline a s) := by
  cases h : s.inp.pushes with
  | nil => rw [callPipeline_quiet a h]; exact emit_frame a s
  | cons l ls => rw [callPipeline_pushes a h]; exact PipelineFrame.trans (t := setPushes ls (emit a s)) rfl (pushAll_frame l _)

@[simp] theorem callPipeline_trace (a : Action) (s : State) : (callPipeline a s).trace = s.trace ++ [a] := by
  cases h : s.inp.pushes with
  | nil => rw [callPipeline_quiet a h]; rfl
  | cons l ls => rw [callPipeline_pushes a h, pushAll_trace]; rfl

@[simp] theorem callPipeline_inp_pushes (a : Action) (s : State) :
    (callPipeline a s).inp.pushes = s.inp.pushes.tail := by
  cases h : s.inp.pushes with
  | nil => rw [callPipeline_quiet a h]; simp [h]
  | cons l ls => rw [callPipeline_pushes a h, pushAll_inp]; rfl

/-- What an emitted action, a consumed PUSH list and every PUSH on a running block keep, a call on a running block keeps. -/
theorem callPipeline_keeps (P : State → Prop) (a : Action) (s : State) (hs : s.halted = false)
    (he : P (emit a s)) (h : ∀ ls, P (setPushes ls (emit a s)))
    (hp : ∀ w e v, v.halted = false → P v → P (trkPush w e v)) : P (callPipeline a s) := by
  cases hl : s.inp.pushes with
  | nil => rw [callPipeline_quiet a hl]; exact he
  | cons l ls => rw [callPipeline_pushes a hl]; exact pushAll_keeps P hp l _ hs (h ls)

/-- A call adds to a stream no more epochs than the PUSHes it takes from those still to come. -/
theorem pushAll_count_le (rs : List PushReq) (s : State) (k : StreamId) :
    (trk (pushAll rs s) k).count ≤ (trk s k).count + rs.length := by
  induction rs generalizing s with
  | nil => simp
  | cons r rs ih =>
    have h1 := trkPush_count_le r.stream r.epoch s k
    rw [pushAll_cons, Machine.andThen, List.length_cons]
    split
    · omega
    · have := ih (trkPush r.stream r.epoch s); omega

theorem callPipeline_count_le (a : Action) (s : State) (k : StreamId) :
    (trk (callPipeline a s) k).count + pendingPushes (callPipeline a s) ≤ (trk s k).count + pendingPushes s := by
  cases hl : s.inp.pushes with
  | nil => rw [callPipeline_quiet a hl]; simp [pendingPushes]
  | cons l ls =>
    have h1 := pushAll_count_le l (setPushes ls (emit a s)) k
    rw [callPipeline_pushes a hl]
    simp only [trk_setPushes, trk_emit] at h1
    simp only [pendingPushes, pushAll_inp, setPushes_inp, hl, List.map_cons, List.sum_cons]
    omega

/-! ### The admin handler -/

/-- What the admin handler's acts may change (10_state.md R73): `ioq_valid`, `cache_en` and, by completions of its own, the
trace. -/
theorem handlerActs_frame (as : List HandlerAct) (s : State) :
    handlerActs as s = { s with
      ioqValid := (handlerActs as s).ioqValid, cacheEn := (handlerActs as s).cacheEn,
      trace := (handlerActs as s).trace } := by
  induction as generalizing s with
  | nil => rfl
  | cons a as ih =>
    have h : handlerActs (a :: as) s = handlerActs as (handlerAct a s) := rfl
    rw [h, ih (handlerAct a s)]
    cases a <;> rfl

/-- The handler appends completions of its own to the trace, and nothing else. -/
theorem handlerActs_trace (as : List HandlerAct) (s : State) :
    ∃ cs : List (Nat × Nat × Nat),
      (handlerActs as s).trace = s.trace ++ cs.map fun c => .handlerCompletion c.1 c.2.1 c.2.2 := by
  induction as generalizing s with
  | nil => exact ⟨[], by simp [handlerActs]⟩
  | cons a as ih =>
    obtain ⟨cs, h⟩ := ih (handlerAct a s)
    cases a with
    | setIoq p v => exact ⟨cs, h⟩
    | setCache v => exact ⟨cs, h⟩
    | complete x y z => exact ⟨(x, y, z) :: cs, by simpa [handlerActs, handlerAct] using h⟩

end Sys2Proof.Machine
end

