-- ==== Sys2Proof/Laws/Stream.lean ====
section
/-! SUPPORT. A barrier stream as a queue: the append and the vacating of the head keep its invariant, and what they do to its
contents. -/

namespace Sys2Proof.Machine

variable {p : Params} {b : BarrierStream} {inv : Epoch}

theorem fin256_succ (x : Fin 256) : (x + 1).val = (x.val + 1) % 256 := by
  rw [Fin.val_add]; rfl

theorem slotOf_lt (b : BarrierStream) (i : Nat) : slotOf b i < Config.trkCap := Nat.mod_lt _ (by decide)

theorem slotOf_zero (b : BarrierStream) : slotOf b 0 = b.head.val := by
  have := b.head.isLt
  simp only [slotOf, Config.trkCap]; omega

@[simp] theorem slotOf_append (b : BarrierStream) (e : Epoch) (i : Nat) : slotOf (b.append inv e) i = slotOf b i := rfl

theorem slotOf_dropHead (b : BarrierStream) (i : Nat) : slotOf (b.dropHead inv) i = slotOf b (i + 1) := by
  show ((b.head + 1).val + i) % 256 = (b.head.val + (i + 1)) % 256
  rw [fin256_succ]; omega

/-- Slots of different epochs of a stream of at most 256 differ. -/
theorem slotOf_ne {i j : Nat} (hij : i < j) (hj : j < i + 256) : slotOf b i ≠ slotOf b j := by
  simp only [slotOf, Config.trkCap]; omega

@[simp] theorem append_count (e : Epoch) : (b.append inv e).count = b.count + 1 := rfl

@[simp] theorem append_head (e : Epoch) : (b.append inv e).head = b.head := rfl

@[simp] theorem dropHead_count : (b.dropHead inv).count = b.count - 1 := rfl

@[simp] theorem dropHead_tail : (b.dropHead inv).tail = b.tail := rfl

/-- The count the capacity check lets a PUSH start from. -/
theorem count_lt_of_room {c : CapCheck} {n : Nat} (h : capacityExceeded c n = false) : n + 1 ≤ maxCount c := by
  cases c <;> simp [capacityExceeded, maxCount, Config.trkCap] at * <;> omega

/-- An empty stream is as it should be. -/
theorem StreamOk.empty (p : Params) : StreamOk p .empty := by
  refine ⟨rfl, Nat.zero_le _, rfl, fun a _ _ => rfl⟩

/-- PUSH keeps the stream invariant. -/
theorem StreamOk.append (h : StreamOk p b) (hc : capacityExceeded p.capCheck b.count = false) (e : Epoch) :
    StreamOk p (b.append p.epochInvalid e) where
  buf_wf := Memory.wf_write h.buf_wf b.tail.isLt e
  count_le := count_lt_of_room hc
  tail_eq := by
    have ht := h.tail_eq
    show (b.tail + 1).val = (b.head.val + (b.count + 1)) % 256
    simp only [slotOf, Config.trkCap] at ht
    rw [fin256_succ, ht]; omega
  idle_slot := by
    intro a ha hi
    have hne : a ≠ b.tail.val := by rw [h.tail_eq]; exact fun hh => hi b.count (by simp) (by rw [hh]; rfl)
    show Memory.read p.epochInvalid (Memory.write p.epochInvalid b.buf b.tail e) a = p.epochInvalid
    rw [Memory.read_write_other hne]
    exact h.idle_slot a ha fun i hlt => hi i (by simp; omega)

/-- POP keeps the stream invariant. -/
theorem StreamOk.dropHead (h : StreamOk p b) (hc : b.count ≠ 0) : StreamOk p (b.dropHead p.epochInvalid) where
  buf_wf := Memory.wf_write h.buf_wf b.head.isLt _
  count_le := by have := h.count_le; simp only [dropHead_count]; omega
  tail_eq := by
    rw [dropHead_tail, h.tail_eq, dropHead_count, slotOf_dropHead, Nat.sub_add_cancel (by omega)]
  idle_slot := by
    intro a ha hi
    show Memory.read p.epochInvalid (Memory.write p.epochInvalid b.buf b.head p.epochInvalid) a = p.epochInvalid
    rw [Memory.read_write h.buf_wf]
    split
    · rfl
    · refine h.idle_slot a ha fun i hlt => ?_
      cases i with
      | zero => rw [slotOf_zero]; exact fun hh => ‹¬ a = _› hh.symm
      | succ j => rw [← slotOf_dropHead (inv := p.epochInvalid)]; exact hi j (by simp; omega)

/-- The buffers of the machine right after reset are in the canonical form. -/
theorem reset_memory_wf (k : StreamId) : (trk State.reset k).buf.wf State.reset.params.epochInvalid = true := by
  cases k <;> rfl

theorem contents_of_count_zero (h : b.count = 0) : contents inv b = [] := by simp [contents, h]

/-- PUSH on a stream of fewer than 256 epochs appends the epoch to its contents (40_barrier_tracker.md R130). -/
theorem contents_append (hw : b.buf.wf inv = true) (ht : b.tail.val = slotOf b b.count) (hc : b.count < Config.trkCap)
    (e : Epoch) : contents inv (b.append inv e) = contents inv b ++ [e] := by
  have hbuf : (b.append inv e).buf = b.buf.write inv b.tail e := rfl
  simp only [contents, append_count, List.range_succ, List.map_append, List.map_cons, List.map_nil, slotOf_append, hbuf]
  congr 1
  · refine List.map_congr_left fun i hi => ?_
    rw [List.mem_range] at hi
    apply Memory.read_write_other
    rw [ht]
    exact slotOf_ne hi (by simp only [Config.trkCap] at hc; omega)
  · rw [← ht, Memory.read_write hw, if_pos rfl]

/-- The oldest epoch of a stream, and the contents POP leaves (40_barrier_tracker.md R132). -/
theorem contents_dropHead (hc : b.count ≠ 0) (hle : b.count ≤ Config.trkCap) :
    contents inv b = b.buf.read inv b.head :: contents inv (b.dropHead inv) := by
  obtain ⟨n, hn⟩ := Nat.exists_eq_succ_of_ne_zero hc
  have hbuf : (b.dropHead inv).buf = b.buf.write inv b.head inv := rfl
  simp only [contents, hn, dropHead_count, Nat.succ_eq_add_one, Nat.add_sub_cancel, List.range_succ_eq_map, List.map_cons,
    List.map_map, slotOf_zero, hbuf, slotOf_dropHead]
  congr 1
  refine List.map_congr_left fun i hi => ?_
  rw [List.mem_range] at hi
  simp only [Function.comp_apply, Nat.succ_eq_add_one]
  rw [Memory.read_write_other]
  rw [← slotOf_zero b]
  exact (slotOf_ne (by omega) (by simp only [Config.trkCap] at hle; omega)).symm

/-- An empty stream that is as it should be lists no slot. -/
theorem StreamOk.buf_of_count_zero (h : StreamOk p b) (hc : b.count = 0) : b.buf = [] :=
  Memory.ext_read (lo := 0) h.buf_wf rfl fun a ha => by
    rw [h.idle_slot a ha fun i hi => absurd hi (by omega)]; rfl

/-- An empty stream that is as it should be has its tail at its head. -/
theorem StreamOk.tail_of_count_zero (h : StreamOk p b) (hc : b.count = 0) : b.tail = b.head :=
  Fin.ext (by rw [h.tail_eq, hc, slotOf_zero])

end Sys2Proof.Machine
end

