-- ==== Sys2Proof/Laws/Drain.lean ====
section
/-! SUPPORT. The barrier drain (42_io_commands.md R181): its rounds are enough, so it is the loop the rule gives; what it keeps,
what it emits, and that it ends with the stream empty unless the environment pushes for ever. -/

namespace Sys2Proof.Machine

variable {s : State} {k : StreamId}

theorem endlessPushes_iff : endlessPushes s = true ↔ s.inp.pushes = [] ∧ s.inp.pushesNeverEnd = true := by
  simp [endlessPushes, and_comm]

/-- When no more rounds are run. -/
theorem drainStops_iff : drainStops k s = true ↔
    s.halted = true ∨ (trk s k).count = 0 ∨ (s.inp.pushes = [] ∧ s.inp.pushesNeverEnd = true) := by
  simp [drainStops, endlessPushes_iff]

/-- A round is run only on a block that is not halted, on a stream that holds an epoch. -/
theorem running_of_not_stops (h : ¬ drainStops k s = true) : s.halted = false ∧ (trk s k).count ≠ 0 := by
  rw [drainStops_iff, not_or, not_or] at h
  exact ⟨Bool.eq_false_iff.mpr h.1, h.2.1⟩

theorem drainRounds_succ (k : StreamId) (n : Nat) (s : State) :
    drainRounds k (n + 1) s = if drainStops k s then s else drainRounds k n (drainOnce k s) := rfl

/-- A round on a stream that holds an epoch: the head is popped and flushed. -/
theorem drainOnce_head (h : (trk s k).count ≠ 0) :
    drainOnce k s =
      callPipeline (.flushBufferedWritesForEpoch k ((trk s k).buf.read s.params.epochInvalid (trk s k).head))
        (setTrk k ((trk s k).dropHead s.params.epochInvalid) s) := by
  simp [drainOnce, trkPop_head h]

theorem drainOnce_frame (k : StreamId) (s : State) : PipelineFrame s (drainOnce k s) := by
  by_cases h : (trk s k).count = 0
  · simp only [drainOnce, trkPop_empty h]; exact raiseFault_frame _ _ _
  · rw [drainOnce_head h]; exact (setTrk_frame _ _ _).trans (callPipeline_frame _ _)

theorem drainRounds_frame (k : StreamId) (n : Nat) (s : State) : PipelineFrame s (drainRounds k n s) := by
  induction n generalizing s with
  | zero => exact .refl s
  | succ n ih =>
    rw [drainRounds_succ]
    split
    · exact .refl s
    · exact (drainOnce_frame k s).trans (ih _)

theorem drainStream_frame (k : StreamId) (s : State) : PipelineFrame s (drainStream k s) := drainRounds_frame k _ s

/-- What the vacating of a head, an emitted action with a consumed PUSH list, and every PUSH on a running block keep, a drain
keeps. -/
theorem drainRounds_keeps (P : State → Prop)
    (hd : ∀ v, v.halted = false → (trk v k).count ≠ 0 → P v → P (setTrk k ((trk v k).dropHead v.params.epochInvalid) v))
    (he : ∀ v e, v.halted = false → P v → P (emit (.flushBufferedWritesForEpoch k e) v))
    (hs : ∀ v ls, v.halted = false → P v → P (setPushes ls v))
    (hp : ∀ w e v, v.halted = false → P v → P (trkPush w e v)) (n : Nat) (s : State) (h : P s) :
    P (drainRounds k n s) := by
  induction n generalizing s with
  | zero => exact h
  | succ n ih =>
    rw [drainRounds_succ]
    split
    · exact h
    · rename_i hh
      replace hh := running_of_not_stops hh
      refine ih _ ?_
      rw [drainOnce_head hh.2]
      have hv : (setTrk k ((trk s k).dropHead s.params.epochInvalid) s).halted = false := by simpa using hh.1
      have hv' := he _ ((trk s k).buf.read s.params.epochInvalid (trk s k).head) hv (hd s hh.1 hh.2 h)
      exact callPipeline_keeps P _ _ hv hv' (fun ls => hs _ ls hv hv') hp

/-- A drain of stream `k` emits flushes of epochs of stream `k`, and nothing else. -/
theorem drainRounds_trace (k : StreamId) (n : Nat) (s : State) :
    ∃ es, (drainRounds k n s).trace = s.trace ++ flushesOf k es := by
  induction n generalizing s with
  | zero => exact ⟨[], by simp [flushesOf, drainRounds]⟩
  | succ n ih =>
    rw [drainRounds_succ]
    split
    · exact ⟨[], by simp [flushesOf]⟩
    · rename_i hh
      replace hh := running_of_not_stops hh
      obtain ⟨es, h⟩ := ih (drainOnce k s)
      rw [drainOnce_head hh.2] at h ⊢
      exact ⟨(trk s k).buf.read s.params.epochInvalid (trk s k).head :: es, by simpa [flushesOf] using h⟩

theorem drainStream_trace (k : StreamId) (s : State) : ∃ es, (drainStream k s).trace = s.trace ++ flushesOf k es :=
  drainRounds_trace k _ s

/-- Every round leaves less to drain, counting the PUSHes still to come. -/
theorem drainOnce_decreases (h : (trk s k).count ≠ 0) :
    (trk (drainOnce k s) k).count + pendingPushes (drainOnce k s) + 1 ≤ (trk s k).count + pendingPushes s := by
  rw [drainOnce_head h]
  have h1 := callPipeline_count_le
    (.flushBufferedWritesForEpoch k ((trk s k).buf.read s.params.epochInvalid (trk s k).head))
    (setTrk k ((trk s k).dropHead s.params.epochInvalid) s) k
  simp only [trk_setTrk_same, dropHead_count, pendingPushes, setTrk_inp] at h1 ⊢
  omega

/-- Once there are enough rounds, more change nothing. -/
theorem drainRounds_enough (n : Nat) (s : State) (h : (trk s k).count + pendingPushes s ≤ n) :
    drainRounds k (n + 1) s = drainRounds k n s := by
  induction n generalizing s with
  | zero => rw [drainRounds_succ, if_pos (drainStops_iff.mpr (by omega))]; rfl
  | succ n ih =>
    rw [drainRounds_succ k (n + 1) s, drainRounds_succ k n s]
    split
    · rfl
    · rename_i hh
      have := drainOnce_decreases (running_of_not_stops hh).2
      exact ih _ (by omega)

theorem drainRounds_of_le {m n : Nat} (s : State) (h : (trk s k).count + pendingPushes s ≤ m) (hmn : m ≤ n) :
    drainRounds k n s = drainRounds k m s := by
  induction n, hmn using Nat.le_induction with
  | base => rfl
  | succ n hn ih => rw [drainRounds_enough n s (by omega), ih]

/-- The drain is the loop of 42_io_commands.md R181: while the stream is not empty and no fault has ended the tick, POP and
flush; from where the environment pushes for ever, the loop has no end. -/
theorem drainStream_loop (k : StreamId) (s : State) :
    drainStream k s = if drainStops k s then s else drainStream k (drainOnce k s) := by
  unfold drainStream
  split
  · rename_i hh
    cases (trk s k).count + pendingPushes s with
    | zero => rfl
    | succ n => rw [drainRounds_succ, if_pos hh]
  · rename_i hh
    have hd := drainOnce_decreases (running_of_not_stops hh).2
    obtain ⟨n, hn⟩ : ∃ n, (trk s k).count + pendingPushes s = n + 1 := ⟨_, (Nat.sub_add_cancel (by omega)).symm⟩
    rw [hn, drainRounds_succ, if_neg hh]
    exact drainRounds_of_le _ (le_refl _) (by omega)

/-- A block that a fault has halted drains nothing. -/
theorem drainStream_of_halted (k : StreamId) (h : s.halted = true) : drainStream k s = s := by
  rw [drainStream_loop, if_pos (drainStops_iff.mpr (.inl h))]

/-- With enough rounds nothing is left to run. -/
theorem drainRounds_stops (n : Nat) (s : State) (hn : (trk s k).count + pendingPushes s ≤ n) :
    drainStops k (drainRounds k n s) = true := by
  induction n generalizing s with
  | zero => exact drainStops_iff.mpr (.inr (.inl (show (trk s k).count = 0 by omega)))
  | succ n ih =>
    rw [drainRounds_succ]
    by_cases hh : drainStops k s = true
    · rwa [if_pos hh]
    · rw [if_neg hh]
      have hd := drainOnce_decreases (running_of_not_stops hh).2
      exact ih _ (by omega)

/-- How the rounds of a drain end: a fault has ended the tick, the stream is empty, or the environment pushes for ever. -/
theorem drainStream_ends (k : StreamId) (s : State) :
    (drainStream k s).halted = true ∨ (trk (drainStream k s) k).count = 0 ∨
      ((drainStream k s).inp.pushes = [] ∧ s.inp.pushesNeverEnd = true) := by
  have h := drainStops_iff.mp (drainRounds_stops (k := k) _ s (le_refl _))
  rwa [show (drainRounds k ((trk s k).count + pendingPushes s) s).inp.pushesNeverEnd = s.inp.pushesNeverEnd from
    (drainStream_frame k s).inp_pushesNeverEnd] at h

/-- Everything `drain` can do: its next state is what the rounds leave, halted or with the stream empty. -/
theorem drain_eq_next {t : State} :
    drain k s = .next t ↔ t = drainStream k s ∧ (t.halted = true ∨ (trk t k).count = 0) := by
  unfold drain
  split
  · rename_i h
    simp only [Bool.or_eq_true, beq_iff_eq] at h
    refine ⟨fun hh => ?_, fun hh => by rw [hh.1]⟩
    cases hh
    exact ⟨rfl, h⟩
  · rename_i h
    simp only [Bool.or_eq_true, beq_iff_eq] at h
    refine ⟨fun hh => (nomatch hh), fun hh => absurd ?_ h⟩
    rw [← hh.1]
    exact hh.2

/-- A drain that ends. -/
theorem drain_of_ends (h : (drainStream k s).halted = true ∨ (trk (drainStream k s) k).count = 0) :
    drain k s = .next (drainStream k s) := drain_eq_next.mpr ⟨rfl, h⟩

/-- A drain that never ends (93_implementation_defined.md I23). -/
theorem drain_of_endless (h : (drainStream k s).halted = false) (hc : (trk (drainStream k s) k).count ≠ 0) :
    drain k s = .fault (.drainNeverEnds k (drainStream k s).trace) := by
  simp [drain, h, hc]

end Sys2Proof.Machine
end

