-- ==== Sys2Proof/Laws/Control.lean ====
section
/-! SUPPORT. What the parts of a tick leave unchanged, what a tick and a step can do, said once, and what every meaning keeps. -/

namespace Sys2Proof.Machine

variable {s t : State}

/-! ### The meanings, each as one operation performed on a block that is not halted -/

theorem exec_flush (tag : CmdTag) (v : IoView) (s : State) : exec (.flush tag v) s =
    attempt s (fun s => onNext (flushPersist s) fun t => .next (andThen t (emit (.postCompletion tag.slot 0 0)))) := rfl

/-- The state a FLUSH goes on from once it has persisted: after the one call, or after the two drains, the second skipped on a
halted block. -/
def persisted (s : State) : State :=
  if s.params.barrierMode then andThen (drainStream .one s) (drainStream .two) else callPipeline .flushAllBufferedWrites s

/-- A FLUSH that goes on has persisted. -/
theorem flushPersist_eq_next (h : flushPersist s = .next t) : t = persisted s := by
  unfold flushPersist at h
  unfold persisted
  split
  · rename_i hb
    rw [if_pos hb, onNext_eq_next] at h
    obtain ⟨u, hu, ht⟩ := h
    obtain ⟨rfl, _⟩ := drain_eq_next.mp hu
    obtain ⟨rfl, _⟩ := drain_eq_next.mp ht
    unfold andThen
    split
    · exact drainStream_of_halted .two ‹_›
    · rfl
  · rename_i hb
    rw [if_neg hb] at h
    cases h
    rfl

/-- Everything a FLUSH that answers a next state does. -/
theorem exec_flush_eq_next {tag : CmdTag} {v : IoView} (h : exec (.flush tag v) s = .next t) :
    s.halted = false ∧ t = andThen (persisted s) (emit (.postCompletion tag.slot 0 0)) := by
  rw [exec_flush, attempt_eq_next, onNext_eq_next] at h
  obtain ⟨hs, u, hu, ht⟩ := h
  cases ht
  exact ⟨hs, by rw [flushPersist_eq_next hu]⟩

theorem exec_write (tag : CmdTag) (v : IoView) (s : State) : exec (.write tag v) s =
    perform s (fun s => checked (checkIo s.params v 16) s
      (callPipeline
        (if s.params.barrierMode then .translateAndSubmitWriteWithBarrier tag.slot (dwordsOf 0x01#8 v)
         else .translateAndSubmit tag.slot (startLba v) v.nlb .write))) := rfl

theorem exec_read (tag : CmdTag) (v : IoView) (s : State) : exec (.read tag v) s =
    perform s (fun s => checked (checkIo s.params v 4) s
      (callPipeline (.translateAndSubmit tag.slot (startLba v) v.nlb .read))) := rfl

theorem exec_admin (tag : CmdTag) (dw : Dwords) (s : State) : exec (.admin tag dw) s =
    perform s (fun s => handlerActs s.inp.handler (emit (.adminCommandHandler ⟨tag, dw⟩) s)) := rfl

theorem exec_push (w : Word) (e : Epoch) (s : State) : exec (.push w e) s = perform s (trkPush w e) := rfl

theorem exec_pop (w : Word) (s : State) : exec (.pop w) s =
    perform s (fun s =>
      match trkPop w s with
      | (s', some e) => answerPort (.epoch e) s'
      | (s', none) => s') := rfl

theorem exec_count (w : Word) (s : State) : exec (.count w) s =
    perform s (fun s =>
      match trkCount w s with
      | (s', some c) => answerPort (.count (BitVec.ofNat 9 c)) s'
      | (s', none) => s') := rfl

/-- A halted block runs no instruction (60_exceptions.md R231): every meaning is performed on a block that is not halted. -/
theorem running_of_exec {i : Instr} (h : exec i s = .next t) : s.halted = false := by
  cases hh : s.halted with
  | false => rfl
  | true =>
    cases i <;>
      simp [exec_flush, exec_write, exec_read, exec_admin, exec_push, exec_pop, exec_count, attempt_of_halted _ _ hh,
        perform_of_halted _ _ hh] at h

/-! ### stateStep -/

@[simp] theorem stateStep_params (s : State) : (stateStep s).params = s.params := by
  unfold stateStep; split <;> simp only [idleArm, waitCcEnArm, runningArm, shutdownArm, waitResetArm, resetArm, countResetVisit] <;>
    repeat' split
  all_goals simp
@[simp] theorem stateStep_booted (s : State) : (stateStep s).booted = s.booted := by
  unfold stateStep; split <;> simp only [idleArm, waitCcEnArm, runningArm, shutdownArm, waitResetArm, resetArm, countResetVisit] <;>
    repeat' split
  all_goals simp
@[simp] theorem stateStep_halted (s : State) : (stateStep s).halted = s.halted := by
  unfold stateStep; split <;> simp only [idleArm, waitCcEnArm, runningArm, shutdownArm, waitResetArm, resetArm, countResetVisit] <;>
    repeat' split
  all_goals simp
@[simp] theorem stateStep_faultCode (s : State) : (stateStep s).faultCode = s.faultCode := by
  unfold stateStep; split <;> simp only [idleArm, waitCcEnArm, runningArm, shutdownArm, waitResetArm, resetArm, countResetVisit] <;>
    repeat' split
  all_goals simp
@[simp] theorem stateStep_faultInfo (s : State) : (stateStep s).faultInfo = s.faultInfo := by
  unfold stateStep; split <;> simp only [idleArm, waitCcEnArm, runningArm, shutdownArm, waitResetArm, resetArm, countResetVisit] <;>
    repeat' split
  all_goals simp
@[simp] theorem stateStep_trk1 (s : State) : (stateStep s).trk1 = s.trk1 := by
  unfold stateStep; split <;> simp only [idleArm, waitCcEnArm, runningArm, shutdownArm, waitResetArm, resetArm, countResetVisit] <;>
    repeat' split
  all_goals simp
@[simp] theorem stateStep_trk2 (s : State) : (stateStep s).trk2 = s.trk2 := by
  unfold stateStep; split <;> simp only [idleArm, waitCcEnArm, runningArm, shutdownArm, waitResetArm, resetArm, countResetVisit] <;>
    repeat' split
  all_goals simp
@[simp] theorem stateStep_cmd (s : State) : (stateStep s).cmd = s.cmd := by
  unfold stateStep; split <;> simp only [idleArm, waitCcEnArm, runningArm, shutdownArm, waitResetArm, resetArm, countResetVisit] <;>
    repeat' split
  all_goals simp
@[simp] theorem stateStep_runBg (s : State) : (stateStep s).runBg = s.runBg := by
  unfold stateStep; split <;> simp only [idleArm, waitCcEnArm, runningArm, shutdownArm, waitResetArm, resetArm, countResetVisit] <;>
    repeat' split
  all_goals simp
@[simp] theorem stateStep_inp (s : State) : (stateStep s).inp = s.inp := by
  unfold stateStep; split <;> simp only [idleArm, waitCcEnArm, runningArm, shutdownArm, waitResetArm, resetArm, countResetVisit] <;>
    repeat' split
  all_goals simp
@[simp] theorem stateStep_portResult (s : State) : (stateStep s).portResult = s.portResult := by
  unfold stateStep; split <;> simp only [idleArm, waitCcEnArm, runningArm, shutdownArm, waitResetArm, resetArm, countResetVisit] <;>
    repeat' split
  all_goals simp
@[simp] theorem stateStep_hostq (s : State) : (stateStep s).hostq = s.hostq := by
  unfold stateStep; split <;> simp only [idleArm, waitCcEnArm, runningArm, shutdownArm, waitResetArm, resetArm, countResetVisit] <;>
    repeat' split
  all_goals simp
@[simp] theorem stateStep_script (s : State) : (stateStep s).script = s.script := by
  unfold stateStep; split <;> simp only [idleArm, waitCcEnArm, runningArm, shutdownArm, waitResetArm, resetArm, countResetVisit] <;>
    repeat' split
  all_goals simp
@[simp] theorem stateStep_drawNo (s : State) : (stateStep s).drawNo = s.drawNo := by
  unfold stateStep; split <;> simp only [idleArm, waitCcEnArm, runningArm, shutdownArm, waitResetArm, resetArm, countResetVisit] <;>
    repeat' split
  all_goals simp

/-! ### force -/

@[simp] theorem force_params (s : State) : (force s).params = s.params := by unfold force; split <;> [rfl; (split <;> rfl)]
@[simp] theorem force_booted (s : State) : (force s).booted = s.booted := by unfold force; split <;> [rfl; (split <;> rfl)]
@[simp] theorem force_halted (s : State) : (force s).halted = s.halted := by unfold force; split <;> [rfl; (split <;> rfl)]
@[simp] theorem force_faultCode (s : State) : (force s).faultCode = s.faultCode := by unfold force; split <;> [rfl; (split <;> rfl)]
@[simp] theorem force_faultInfo (s : State) : (force s).faultInfo = s.faultInfo := by unfold force; split <;> [rfl; (split <;> rfl)]
@[simp] theorem force_cacheEn (s : State) : (force s).cacheEn = s.cacheEn := by unfold force; split <;> [rfl; (split <;> rfl)]
@[simp] theorem force_cstsRdy (s : State) : (force s).cstsRdy = s.cstsRdy := by unfold force; split <;> [rfl; (split <;> rfl)]
@[simp] theorem force_cstsShst (s : State) : (force s).cstsShst = s.cstsShst := by unfold force; split <;> [rfl; (split <;> rfl)]
@[simp] theorem force_adminQ (s : State) : (force s).adminQ = s.adminQ := by unfold force; split <;> [rfl; (split <;> rfl)]
@[simp] theorem force_ioqValid (s : State) : (force s).ioqValid = s.ioqValid := by unfold force; split <;> [rfl; (split <;> rfl)]
@[simp] theorem force_rstCnt (s : State) : (force s).rstCnt = s.rstCnt := by unfold force; split <;> [rfl; (split <;> rfl)]
@[simp] theorem force_flushTimerBase (s : State) : (force s).flushTimerBase = s.flushTimerBase := by unfold force; split <;> [rfl; (split <;> rfl)]
@[simp] theorem force_trk1 (s : State) : (force s).trk1 = s.trk1 := by unfold force; split <;> [rfl; (split <;> rfl)]
@[simp] theorem force_trk2 (s : State) : (force s).trk2 = s.trk2 := by unfold force; split <;> [rfl; (split <;> rfl)]
@[simp] theorem force_cmd (s : State) : (force s).cmd = s.cmd := by unfold force; split <;> [rfl; (split <;> rfl)]
@[simp] theorem force_runBg (s : State) : (force s).runBg = s.runBg := by unfold force; split <;> [rfl; (split <;> rfl)]
@[simp] theorem force_inp (s : State) : (force s).inp = s.inp := by unfold force; split <;> [rfl; (split <;> rfl)]
@[simp] theorem force_portResult (s : State) : (force s).portResult = s.portResult := by unfold force; split <;> [rfl; (split <;> rfl)]
@[simp] theorem force_trace (s : State) : (force s).trace = s.trace := by unfold force; split <;> [rfl; (split <;> rfl)]
@[simp] theorem force_hostq (s : State) : (force s).hostq = s.hostq := by unfold force; split <;> [rfl; (split <;> rfl)]
@[simp] theorem force_script (s : State) : (force s).script = s.script := by unfold force; split <;> [rfl; (split <;> rfl)]
@[simp] theorem force_drawNo (s : State) : (force s).drawNo = s.drawNo := by unfold force; split <;> [rfl; (split <;> rfl)]

/-! ### beginTick -/

@[simp] theorem beginTick_params (inp : Inputs) (s : State) : (beginTick inp s).params = s.params := by simp [beginTick, loadTick]
@[simp] theorem beginTick_booted (inp : Inputs) (s : State) : (beginTick inp s).booted = s.booted := by simp [beginTick, loadTick]
@[simp] theorem beginTick_halted (inp : Inputs) (s : State) : (beginTick inp s).halted = s.halted := by simp [beginTick, loadTick]
@[simp] theorem beginTick_faultCode (inp : Inputs) (s : State) : (beginTick inp s).faultCode = s.faultCode := by simp [beginTick, loadTick]
@[simp] theorem beginTick_faultInfo (inp : Inputs) (s : State) : (beginTick inp s).faultInfo = s.faultInfo := by simp [beginTick, loadTick]
@[simp] theorem beginTick_cacheEn (inp : Inputs) (s : State) : (beginTick inp s).cacheEn = s.cacheEn := by simp [beginTick, loadTick]
@[simp] theorem beginTick_cstsRdy (inp : Inputs) (s : State) : (beginTick inp s).cstsRdy = s.cstsRdy := by simp [beginTick, loadTick]
@[simp] theorem beginTick_cstsShst (inp : Inputs) (s : State) : (beginTick inp s).cstsShst = s.cstsShst := by simp [beginTick, loadTick]
@[simp] theorem beginTick_adminQ (inp : Inputs) (s : State) : (beginTick inp s).adminQ = s.adminQ := by simp [beginTick, loadTick]
@[simp] theorem beginTick_ioqValid (inp : Inputs) (s : State) : (beginTick inp s).ioqValid = s.ioqValid := by simp [beginTick, loadTick]
@[simp] theorem beginTick_rstCnt (inp : Inputs) (s : State) : (beginTick inp s).rstCnt = s.rstCnt := by simp [beginTick, loadTick]
@[simp] theorem beginTick_flushTimerBase (inp : Inputs) (s : State) : (beginTick inp s).flushTimerBase = s.flushTimerBase := by simp [beginTick, loadTick]
@[simp] theorem beginTick_trk1 (inp : Inputs) (s : State) : (beginTick inp s).trk1 = s.trk1 := by simp [beginTick, loadTick]
@[simp] theorem beginTick_trk2 (inp : Inputs) (s : State) : (beginTick inp s).trk2 = s.trk2 := by simp [beginTick, loadTick]
@[simp] theorem beginTick_portResult (inp : Inputs) (s : State) : (beginTick inp s).portResult = s.portResult := by simp [beginTick, loadTick]
@[simp] theorem beginTick_script (inp : Inputs) (s : State) : (beginTick inp s).script = s.script := by simp [beginTick, loadTick]
@[simp] theorem beginTick_drawNo (inp : Inputs) (s : State) : (beginTick inp s).drawNo = s.drawNo := by simp [beginTick, loadTick]

@[simp] theorem beginTick_inp (inp : Inputs) (s : State) : (beginTick inp s).inp = clipInputs s.params inp := by
  simp [beginTick, loadTick]
@[simp] theorem beginTick_trace (inp : Inputs) (s : State) : (beginTick inp s).trace = [] := by simp [beginTick, loadTick]
@[simp] theorem beginTick_cmd (inp : Inputs) (s : State) : (beginTick inp s).cmd = none := by simp [beginTick, loadTick]
@[simp] theorem beginTick_runBg (inp : Inputs) (s : State) : (beginTick inp s).runBg = true := rfl
@[simp] theorem beginTick_hostq (inp : Inputs) (s : State) :
    (beginTick inp s).hostq = s.hostq ++ inp.arrivals.map (clipCommand s.params) := by
  simp [beginTick, loadTick, clipInputs]

/-- The lifecycle state after the forcing of a tick (43_control_loop.md R212). -/
theorem beginTick_ctlState (inp : Inputs) (s : State) : (beginTick inp s).ctlState = forcedState s.ctlState inp := by
  show (force (loadTick inp s)).ctlState = _
  have h1 : (loadTick inp s).inp.resetForce = inp.resetForce := rfl
  have h2 : (loadTick inp s).inp.enableEvt = inp.enableEvt := rfl
  have h3 : (loadTick inp s).ctlState = s.ctlState := rfl
  unfold force forcedState
  rw [h1, h2, h3]
  split
  · rfl
  · simp only [Bool.and_eq_true, beq_iff_eq]
    split
    · rfl
    · exact h3

/-! ### fetchCommand -/

@[simp] theorem fetchCommand_params (s : State) : (fetchCommand s).params = s.params := by unfold fetchCommand; split <;> rfl
@[simp] theorem fetchCommand_booted (s : State) : (fetchCommand s).booted = s.booted := by unfold fetchCommand; split <;> rfl
@[simp] theorem fetchCommand_halted (s : State) : (fetchCommand s).halted = s.halted := by unfold fetchCommand; split <;> rfl
@[simp] theorem fetchCommand_faultCode (s : State) : (fetchCommand s).faultCode = s.faultCode := by unfold fetchCommand; split <;> rfl
@[simp] theorem fetchCommand_faultInfo (s : State) : (fetchCommand s).faultInfo = s.faultInfo := by unfold fetchCommand; split <;> rfl
@[simp] theorem fetchCommand_ctlState (s : State) : (fetchCommand s).ctlState = s.ctlState := by unfold fetchCommand; split <;> rfl
@[simp] theorem fetchCommand_cacheEn (s : State) : (fetchCommand s).cacheEn = s.cacheEn := by unfold fetchCommand; split <;> rfl
@[simp] theorem fetchCommand_cstsRdy (s : State) : (fetchCommand s).cstsRdy = s.cstsRdy := by unfold fetchCommand; split <;> rfl
@[simp] theorem fetchCommand_cstsShst (s : State) : (fetchCommand s).cstsShst = s.cstsShst := by unfold fetchCommand; split <;> rfl
@[simp] theorem fetchCommand_adminQ (s : State) : (fetchCommand s).adminQ = s.adminQ := by unfold fetchCommand; split <;> rfl
@[simp] theorem fetchCommand_ioqValid (s : State) : (fetchCommand s).ioqValid = s.ioqValid := by unfold fetchCommand; split <;> rfl
@[simp] theorem fetchCommand_flushTimerBase (s : State) : (fetchCommand s).flushTimerBase = s.flushTimerBase := by unfold fetchCommand; split <;> rfl
@[simp] theorem fetchCommand_trk1 (s : State) : (fetchCommand s).trk1 = s.trk1 := by unfold fetchCommand; split <;> rfl
@[simp] theorem fetchCommand_trk2 (s : State) : (fetchCommand s).trk2 = s.trk2 := by unfold fetchCommand; split <;> rfl
@[simp] theorem fetchCommand_runBg (s : State) : (fetchCommand s).runBg = s.runBg := by unfold fetchCommand; split <;> rfl
@[simp] theorem fetchCommand_inp (s : State) : (fetchCommand s).inp = s.inp := by unfold fetchCommand; split <;> rfl
@[simp] theorem fetchCommand_portResult (s : State) : (fetchCommand s).portResult = s.portResult := by unfold fetchCommand; split <;> rfl
@[simp] theorem fetchCommand_script (s : State) : (fetchCommand s).script = s.script := by unfold fetchCommand; split <;> rfl
@[simp] theorem fetchCommand_drawNo (s : State) : (fetchCommand s).drawNo = s.drawNo := by unfold fetchCommand; split <;> rfl

@[simp] theorem fetchCommand_trace (s : State) : (fetchCommand s).trace = s.trace ++ [.fetchCommand] := by
  unfold fetchCommand; split <;> rfl

/-- A poll that finds nothing (10_state.md R55). -/
theorem fetchCommand_none (h : polled s = none) : fetchCommand s = emit .fetchCommand s := by simp [fetchCommand, h]

/-- A poll that finds a command: it leaves the host queue and is latched, and `rst_cnt` is zeroed (43_control_loop.md R213). -/
theorem fetchCommand_some {c : Command} {q : List Command} (h : polled s = some (c, q)) :
    fetchCommand s = { emit .fetchCommand s with hostq := q, rstCnt := 0, cmd := some c } := by simp [fetchCommand, h]

/-- The command a poll finds stood in the host queue, and the queue loses that place. -/
theorem polled_some {c : Command} {q : List Command} (h : polled s = some (c, q)) :
    ∃ k : Nat, s.inp.fetch = some k ∧ s.hostq[k]? = some c ∧ q = s.hostq.eraseIdx k := by
  unfold polled at h
  split at h
  · cases h
  · split at h
    · cases h
    · cases h; exact ⟨_, ‹_›, ‹_›, rfl⟩

/-! ### After the dispatch -/

theorem afterDispatch_admin {c : Command} (h : c.tag.qid = 0) (s : State) : afterDispatch c s = s := by
  simp [afterDispatch, h]

theorem afterDispatch_io {c : Command} (h : c.tag.qid ≠ 0) (s : State) :
    afterDispatch c s =
      andThen (callPipeline .flushSubmissionQueueToLowLevel s) skipBackground := by
  simp [afterDispatch, h]

/-! ### The tick -/

/-- Everything a tick can do: no poll, a poll that finds nothing, an unsupported opcode, or a dispatch. -/
theorem tick_cases {inp : Inputs} {v : State} (h : tick exec inp v = .next t) :
    ((beginTick inp v).ctlState ≠ .running ∧ t = finishTick (beginTick inp v)) ∨
    ((beginTick inp v).ctlState = .running ∧ polled (beginTick inp v) = none ∧
      t = finishTick (fetchCommand (beginTick inp v))) ∨
    (∃ c q op, (beginTick inp v).ctlState = .running ∧ polled (beginTick inp v) = some (c, q) ∧
      decodeCommand c = .error op ∧
      t = finishTick (releaseCommand
        (raiseFault .badOpcode (.word (op.setWidth 32)) (fetchCommand (beginTick inp v))))) ∨
    (∃ c q i u, (beginTick inp v).ctlState = .running ∧ polled (beginTick inp v) = some (c, q) ∧
      decodeCommand c = .ok i ∧ exec i (fetchCommand (beginTick inp v)) = .next u ∧
      t = finishTick (releaseCommand (andThen u (afterDispatch c)))) := by
  rw [tick, onNext_eq_next] at h
  obtain ⟨w, hw, ht⟩ := h
  simp only [Host.Outcome.next.injEq] at ht
  subst ht
  unfold pollAndDispatch at hw
  split at hw
  · rename_i hr
    cases hp : polled (beginTick inp v) with
    | none =>
      rw [fetchCommand_none hp] at hw ⊢
      simp only [dispatch, emit_cmd, beginTick_cmd, Host.Outcome.next.injEq] at hw
      subst hw
      exact .inr (.inl ⟨hr, rfl, rfl⟩)
    | some cq =>
      obtain ⟨c, q⟩ := cq
      have hc : (fetchCommand (beginTick inp v)).cmd = some c := by rw [fetchCommand_some hp]
      rw [dispatch, hc] at hw
      cases hd : decodeCommand c with
      | error op =>
        simp only [hd, Host.Outcome.next.injEq] at hw
        subst hw
        exact .inr (.inr (.inl ⟨c, q, op, hr, rfl, hd, rfl⟩))
      | ok i =>
        simp only [hd] at hw
        rw [onNext_eq_next] at hw
        obtain ⟨u, hu, hw⟩ := hw
        simp only [Host.Outcome.next.injEq] at hw
        subst hw
        exact .inr (.inr (.inr ⟨c, q, i, u, hr, rfl, hd, hu, rfl⟩))
  · rename_i hr
    simp only [Host.Outcome.next.injEq] at hw
    subst hw
    exact .inl ⟨hr, rfl⟩

/-! ### The step -/

theorem whenReady_of_ready (hh : s.halted = false) (hb : s.booted = true) (go : Host.Outcome State Fault Refusal) :
    whenReady s go = go := by simp [whenReady, hh, hb]

theorem whenReady_eq_next {go : Host.Outcome State Fault Refusal} (h : whenReady s go = .next t) :
    s.halted = false ∧ (s.booted = true ∧ go = .next t ∨ s.booted = false ∧ t = boot s) := by
  unfold whenReady at h
  cases hh : s.halted <;> cases hb : s.booted <;> simp_all

/-- A tick on the next event. -/
theorem step_of_tickOn {inp : Inputs} {v : State} (h : TickOn s inp v) : step s = tick exec inp v := by
  obtain ⟨hh, hb, ⟨rest, hs, rfl⟩ | ⟨hs, rfl, rfl⟩⟩ := h
  · simp only [step, stepWith, hs, whenReady_of_ready hh hb]
  · simp only [step, stepWith, hs, whenReady_of_ready hh hb]

/-- Everything a step that answers a next state can do: a block reset, a boot, a tick, or a tracker-port operation. -/
theorem step_cases (h : step s = .next t) :
    (∃ timer rest, s.script = .blockReset timer :: rest ∧ t = blockReset timer { s with script := rest }) ∨
    (NoBlockReset s ∧ s.halted = false ∧ s.booted = false ∧ t = boot s) ∨
    (NoBlockReset s ∧ ∃ inp v, TickOn s inp v ∧ tick exec inp v = .next t) ∨
    (NoBlockReset s ∧ s.halted = false ∧ s.booted = true ∧ ∃ r rest i, s.script = .port r :: rest ∧ decodePort r = some i ∧
      exec i { s with script := rest, trace := [] } = .next t) := by
  unfold step stepWith at h
  split at h
  · rename_i hs
    have hn : NoBlockReset s := fun _ _ hh => by rw [hs] at hh; cases hh
    obtain ⟨hh, ⟨hb, hg⟩ | ⟨hb, hg⟩⟩ := whenReady_eq_next h
    · exact .inr (.inr (.inl ⟨hn, _, _, ⟨hh, hb, .inr ⟨hs, rfl, rfl⟩⟩, hg⟩))
    · exact .inr (.inl ⟨hn, hh, hb, hg⟩)
  · rename_i inp rest hs
    have hn : NoBlockReset s := fun _ _ hh => by rw [hs] at hh; cases hh
    obtain ⟨hh, ⟨hb, hg⟩ | ⟨hb, hg⟩⟩ := whenReady_eq_next h
    · exact .inr (.inr (.inl ⟨hn, _, _, ⟨hh, hb, .inl ⟨rest, hs, rfl⟩⟩, hg⟩))
    · exact .inr (.inl ⟨hn, hh, hb, hg⟩)
  · rename_i r rest hs
    have hn : NoBlockReset s := fun _ _ hh => by rw [hs] at hh; cases hh
    obtain ⟨hh, ⟨hb, hg⟩ | ⟨hb, hg⟩⟩ := whenReady_eq_next h
    · unfold portStep at hg
      split at hg
      · cases hg
      · exact .inr (.inr (.inr ⟨hn, hh, hb, r, rest, _, hs, ‹_›, hg⟩))
    · exact .inr (.inl ⟨hn, hh, hb, hg⟩)
  · rename_i timer rest hs
    simp only [Host.Outcome.next.injEq] at h
    exact .inl ⟨timer, rest, hs, h.symm⟩

end Sys2Proof.Machine
end

