-- ==== Sys2Proof/Laws/Decode.lean ====
section
/-! SUPPORT. The bit fields of the encoder and the decoder undo each other. -/

namespace Sys2Proof

/-- A 32-bit value is its 24 high bits before its 8 low bits. -/
theorem join_low8 (x : Word) : x.extractLsb' 8 24 ++ x.extractLsb' 0 8 = x := by
  apply BitVec.eq_of_getLsbD_eq
  intro i hi
  rw [BitVec.getLsbD_append, BitVec.getLsbD_extractLsb', BitVec.getLsbD_extractLsb']
  split
  · simp [*]
  · rw [show 8 + (i - 8) = i by omega]; simp [show i - 8 < 24 by omega]

/-- A 32-bit value is its 16 high bits before its 16 low bits. -/
theorem join_low16 (x : Word) : x.extractLsb' 16 16 ++ x.extractLsb' 0 16 = x := by
  apply BitVec.eq_of_getLsbD_eq
  intro i hi
  rw [BitVec.getLsbD_append, BitVec.getLsbD_extractLsb', BitVec.getLsbD_extractLsb']
  split
  · simp [*]
  · rw [show 16 + (i - 16) = i by omega]; simp [show i - 16 < 16 by omega]

@[simp] theorem low8_of_join (h : BitVec 24) (l : BitVec 8) : (h ++ l).extractLsb' 0 8 = l := by
  apply BitVec.eq_of_getLsbD_eq
  intro i hi
  rw [BitVec.getLsbD_extractLsb', BitVec.getLsbD_append]; simp [hi]

@[simp] theorem high24_of_join (h : BitVec 24) (l : BitVec 8) : (h ++ l).extractLsb' 8 24 = h := by
  apply BitVec.eq_of_getLsbD_eq
  intro i hi
  rw [BitVec.getLsbD_extractLsb', BitVec.getLsbD_append]; simp [hi]

@[simp] theorem low16_of_join (h l : BitVec 16) : (h ++ l).extractLsb' 0 16 = l := by
  apply BitVec.eq_of_getLsbD_eq
  intro i hi
  rw [BitVec.getLsbD_extractLsb', BitVec.getLsbD_append]; simp [hi]

@[simp] theorem high16_of_join (h l : BitVec 16) : (h ++ l).extractLsb' 16 16 = h := by
  apply BitVec.eq_of_getLsbD_eq
  intro i hi
  rw [BitVec.getLsbD_extractLsb', BitVec.getLsbD_append]; simp [hi]

@[simp] theorem opcodeOf_dwordsOf (op : BitVec 8) (v : IoView) : opcodeOf (dwordsOf op v) = op := by
  simp [opcodeOf, dwordsOf]

@[simp] theorem viewOf_dwordsOf (op : BitVec 8) (v : IoView) : viewOf (dwordsOf op v) = v := by
  simp [viewOf, dwordsOf]

/-- The opcode and the view hold every bit of the 16 dwords. -/
theorem dwordsOf_viewOf (d : Dwords) : dwordsOf (opcodeOf d) (viewOf d) = d := by
  simp [dwordsOf, viewOf, opcodeOf, join_low8, join_low16]

end Sys2Proof
end

