-- ==== Sys2Proof/Laws/Keeps.lean ====
section
/-! SUPPORT. A property that every small operation keeps, every meaning keeps, and the second half of a tick with it: the
induction over a tick, packaged once. -/

namespace Sys2Proof.Machine

/-- The traps of the operand checks are faults. -/
theorem checkIo_fault {p : Params} {v : IoView} {n : Nat} {c : FaultCode} {i : FaultInfo}
    (h : checkIo p v n = some (c, i)) : c ≠ .none := by
  have hp : ∀ {k lo hi} {t : Trap}, checkPrp p k lo hi n = some t → t.1 ≠ .none := by
    intro k lo hi t ht
    unfold checkPrp at ht
    split at ht
    · cases ht; exact fun h => nomatch h
    · split at ht
      · cases ht; exact fun h => nomatch h
      · cases ht
  unfold checkIo at h
  split at h
  · rename_i t ht
    cases h
    unfold checkLba at ht
    split at ht
    · cases ht; decide
    · split at ht
      · cases ht; decide
      · cases ht
  · split at h
    · rename_i t ht; cases h; exact hp ht
    · exact hp h

/-- A property of states that each small operation of the machine keeps. -/
structure KeptByOps (P : State → Prop) : Prop where
  emit : ∀ s a, P s → P (emit a s)
  setPushes : ∀ s ls, P s → P (setPushes ls s)
  raiseFault : ∀ s c i, c ≠ .none → P s → P (raiseFault c i s)
  append : ∀ s k e, capacityExceeded s.params.capCheck (trk s k).count = false → P s →
    P (setTrk k ((trk s k).append s.params.epochInvalid e) s)
  dropHead : ∀ s k, (trk s k).count ≠ 0 → P s → P (setTrk k ((trk s k).dropHead s.params.epochInvalid) s)
  handler : ∀ s v c, P s → P { s with ioqValid := v, cacheEn := c }
  port : ∀ s r, P s → P (answerPort r s)
  skipBackground : ∀ s, P s → P (skipBackground s)
  release : ∀ s, P s → P (releaseCommand s)

/-- The next statement keeps what it keeps when it runs. -/
theorem andThen_keeps {P : State → Prop} {s : State} {f : State → State} (h : P s) (hf : s.halted = false → P (f s)) :
    P (andThen s f) := by
  unfold andThen
  split
  · exact h
  · rename_i hh; exact hf (Bool.eq_false_iff.mpr hh)

namespace KeptByOps

variable {P : State → Prop} (hP : KeptByOps P) {s t : State}
include hP

theorem trkPush (w : Word) (e : Epoch) (h : P s) : P (trkPush w e s) := by
  rcases trkPush_cases w e s with ⟨_, he⟩ | ⟨_, _, _, he⟩ | ⟨k, _, hc, he⟩ <;> rw [he]
  · exact hP.raiseFault _ _ _ (by decide) h
  · exact hP.raiseFault _ _ _ (by decide) h
  · exact hP.append _ _ _ hc h

theorem callPipeline (a : Action) (hs : s.halted = false) (h : P s) : P (callPipeline a s) :=
  callPipeline_keeps P a s hs (hP.emit _ _ h) (fun _ => hP.setPushes _ _ (hP.emit _ _ h)) fun _ _ _ _ => hP.trkPush _ _

theorem drainStream (k : StreamId) (h : P s) : P (drainStream k s) :=
  drainRounds_keeps P (fun _ _ => hP.dropHead _ _) (fun _ _ _ => hP.emit _ _) (fun _ _ _ => hP.setPushes _ _)
    (fun _ _ _ _ => hP.trkPush _ _) _ s h

theorem handlerActs (as : List HandlerAct) (h : P s) : P (handlerActs as s) := by
  induction as generalizing s with
  | nil => exact h
  | cons a as ih =>
    refine ih (s := handlerAct a s) ?_
    cases a with
    | setIoq p v => exact hP.handler s (s.ioqValid.set p v) s.cacheEn h
    | setCache v => exact hP.handler s s.ioqValid v h
    | complete x y z => exact hP.emit _ _ h

theorem checked {f : State → State} (v : IoView) (n : Nat) (h : P s) (hf : P (f s)) :
    P (checked (checkIo s.params v n) s f) := by
  unfold Machine.checked
  split
  · rename_i c i hc; exact hP.raiseFault _ _ _ (checkIo_fault hc) h
  · exact hf

/-- What every small operation keeps, every meaning keeps. -/
theorem exec {i : Instr} (hx : exec i s = .next t) (h : P s) : P t := by
  cases i with
  | flush tag v =>
    obtain ⟨hs, rfl⟩ := exec_flush_eq_next hx
    refine andThen_keeps ?_ fun _ => hP.emit _ _ ?_
    all_goals
      unfold persisted
      split
      · exact andThen_keeps (hP.drainStream _ h) fun _ => hP.drainStream _ (hP.drainStream _ h)
      · exact hP.callPipeline _ hs h
  | write tag v =>
    rw [exec_write, perform_eq_next] at hx
    obtain ⟨hs, rfl⟩ := hx
    exact hP.checked v 16 h (hP.callPipeline _ hs h)
  | read tag v =>
    rw [exec_read, perform_eq_next] at hx
    obtain ⟨hs, rfl⟩ := hx
    exact hP.checked v 4 h (hP.callPipeline _ hs h)
  | admin tag dw =>
    rw [exec_admin, perform_eq_next] at hx
    obtain ⟨hs, rfl⟩ := hx
    exact hP.handlerActs _ (hP.emit _ _ h)
  | push w e =>
    rw [exec_push, perform_eq_next] at hx
    obtain ⟨hs, rfl⟩ := hx
    exact hP.trkPush _ _ h
  | pop w =>
    rw [exec_pop, perform_eq_next] at hx
    obtain ⟨hs, rfl⟩ := hx
    show P (match trkPop w s with | (s', some e) => answerPort (.epoch e) s' | (s', none) => s')
    cases hw : streamOf w with
    | none => rw [trkPop_badStream hw]; exact hP.raiseFault _ _ _ (by decide) h
    | some k =>
      obtain rfl := streamOf_eq_some hw
      by_cases hc : (trk s k).count = 0
      · rw [trkPop_empty hc]; exact hP.raiseFault _ _ _ (by decide) h
      · rw [trkPop_head hc]; exact hP.port _ _ (hP.dropHead _ _ hc h)
  | count w =>
    rw [exec_count, perform_eq_next] at hx
    obtain ⟨hs, rfl⟩ := hx
    show P (match trkCount w s with
      | (s', some c) => answerPort (.count (BitVec.ofNat 9 c)) s' | (s', none) => s')
    unfold trkCount
    cases hw : streamOf w with
    | none => exact hP.raiseFault _ _ _ (by decide) h
    | some k => exact hP.port _ _ h

theorem afterDispatch (c : Command) (hs : s.halted = false) (h : P s) : P (afterDispatch c s) := by
  unfold Machine.afterDispatch
  split
  · exact h
  · exact andThen_keeps (hP.callPipeline _ hs h) fun _ => hP.skipBackground _ (hP.callPipeline _ hs h)

theorem background (hs : s.halted = false) (h : P s) : P (background s) := by
  unfold Machine.background
  split
  · exact andThen_keeps (hP.callPipeline _ hs h) fun hs' => hP.callPipeline _ hs' (hP.callPipeline _ hs h)
  · exact h

/-- What every small operation and `StateStep` keep, steps 3 and 4 of a tick keep. -/
theorem finishTick (hstep : s.halted = false → P s → P (stateStep s)) (h : P s) : P (finishTick s) :=
  andThen_keeps (andThen_keeps h fun hs => hstep hs h) fun hs => hP.background hs (andThen_keeps h fun hs => hstep hs h)

/-- What the beginning of a tick, the poll, every small operation and `StateStep` keep, a tick keeps. -/
theorem tick {inp : Inputs} {v : State} (hb : P (beginTick inp v)) (hf : ∀ u, P u → P (fetchCommand u))
    (hstep : ∀ u, u.halted = false → P u → P (stateStep u)) (ht : tick Machine.exec inp v = .next t) : P t := by
  rcases tick_cases ht with ⟨_, rfl⟩ | ⟨_, _, rfl⟩ | ⟨c, q, op, _, _, _, rfl⟩ | ⟨c, q, i, u, _, _, _, hx, rfl⟩
  · exact hP.finishTick (hstep _) hb
  · exact hP.finishTick (hstep _) (hf _ hb)
  · exact hP.finishTick (hstep _) (hP.release _ (hP.raiseFault _ _ _ (by decide) (hf _ hb)))
  · have hu := hP.exec hx (hf _ hb)
    exact hP.finishTick (hstep _) (hP.release _ (andThen_keeps hu fun hs => hP.afterDispatch c hs hu))

end KeptByOps

end Sys2Proof.Machine
end

