-- ==== Sys2Proof/Laws/PerInstr.lean ====
section
/-! SUPPORT. For every instruction: what its encoding matches is its row of spec/opcode_table.json. -/

namespace Sys2Proof.Laws

/-- A request matches a row of spec/opcode_table.json: the queue condition and the opcode byte of a command, or `trk_op`. -/
def OpcodeTable.matchesRow : Instr → Request → Prop
  | .flush _ _, .command c => c.tag.qid ≠ 0 ∧ opcodeOf c.dw = 0x00#8
  | .write _ _, .command c => c.tag.qid ≠ 0 ∧ opcodeOf c.dw = 0x01#8
  | .read _ _, .command c => c.tag.qid ≠ 0 ∧ opcodeOf c.dw = 0x02#8
  | .admin _ _, .command c => c.tag.qid = 0
  | .push _ _, .port r => r.op = 0#2
  | .pop _, .port r => r.op = 1#2
  | .count _, .port r => r.op = 2#2
  | _, _ => False

/-- A well-formed instruction is encoded as its row of the opcode table asks (30_encoding.md R104, R105, R108). -/
def OpcodeTable.Statement (i : Instr) : Prop := ∀ p : Params, i.wf p = true → OpcodeTable.matchesRow i (encode i)

theorem OpcodeTable.flush (tag : CmdTag) (view : IoView) : OpcodeTable.Statement (.flush tag view) :=
  fun _ h => ⟨by simp [Instr.wf] at h; exact h.2, opcodeOf_dwordsOf _ _⟩

theorem OpcodeTable.write (tag : CmdTag) (view : IoView) : OpcodeTable.Statement (.write tag view) :=
  fun _ h => ⟨by simp [Instr.wf] at h; exact h.2, opcodeOf_dwordsOf _ _⟩

theorem OpcodeTable.read (tag : CmdTag) (view : IoView) : OpcodeTable.Statement (.read tag view) :=
  fun _ h => ⟨by simp [Instr.wf] at h; exact h.2, opcodeOf_dwordsOf _ _⟩

theorem OpcodeTable.admin (tag : CmdTag) (dw : Dwords) : OpcodeTable.Statement (.admin tag dw) :=
  fun _ h => by simp [Instr.wf] at h; exact h.2

theorem OpcodeTable.push (stream : Word) (epoch : Epoch) : OpcodeTable.Statement (.push stream epoch) := fun _ _ => rfl

theorem OpcodeTable.pop (stream : Word) : OpcodeTable.Statement (.pop stream) := fun _ _ => rfl

theorem OpcodeTable.count (stream : Word) : OpcodeTable.Statement (.count stream) := fun _ _ => rfl

end Sys2Proof.Laws
end

