-- ==== Sys2Proof/Laws/Tick.lean ====
section
/-! SUPPORT. The middle of a tick: what the state that steps 3 and 4 begin from has in common with the state the tick began
from, what each part of a tick emits, and what steps 3 and 4 do to the lifecycle state. -/

namespace Sys2Proof.Machine

variable {s t u v : State}

/-! ### What the poll and the dispatch keep -/

/-- What every small operation keeps of the registers and of the environment. -/
structure SameRegs (s u : State) : Prop where
  params : u.params = s.params
  booted : u.booted = s.booted
  ctlState : u.ctlState = s.ctlState
  cstsRdy : u.cstsRdy = s.cstsRdy
  cstsShst : u.cstsShst = s.cstsShst
  adminQ : u.adminQ = s.adminQ
  flushTimerBase : u.flushTimerBase = s.flushTimerBase
  script : u.script = s.script
  drawNo : u.drawNo = s.drawNo
  inp : { u.inp with pushes := [] } = { s.inp with pushes := [] }

theorem SameRegs.refl (s : State) : SameRegs s s := ⟨rfl, rfl, rfl, rfl, rfl, rfl, rfl, rfl, rfl, rfl⟩

theorem SameRegs.resetForce (h : SameRegs s u) : u.inp.resetForce = s.inp.resetForce := congrArg (·.resetForce) h.inp
theorem SameRegs.ccEn (h : SameRegs s u) : u.inp.ccEn = s.inp.ccEn := congrArg (·.ccEn) h.inp
theorem SameRegs.ccShn (h : SameRegs s u) : u.inp.ccShn = s.inp.ccShn := congrArg (·.ccShn) h.inp
theorem SameRegs.timerNow (h : SameRegs s u) : u.inp.timerNow = s.inp.timerNow := congrArg (·.timerNow) h.inp

theorem SameRegs.trans (h : SameRegs s u) (h' : SameRegs u v) : SameRegs s v :=
  ⟨h'.1.trans h.1, h'.2.trans h.2, h'.3.trans h.3, h'.4.trans h.4, h'.5.trans h.5, h'.6.trans h.6, h'.7.trans h.7,
    h'.8.trans h.8, h'.9.trans h.9, h'.10.trans h.10⟩

/-- The registers are kept by every small operation. -/
theorem sameRegs_kept (s : State) : KeptByOps (SameRegs s) where
  emit _ _ h := ⟨h.1, h.2, h.3, h.4, h.5, h.6, h.7, h.8, h.9, h.10⟩
  setPushes _ _ h := ⟨h.1, h.2, h.3, h.4, h.5, h.6, h.7, h.8, h.9, h.10⟩
  raiseFault _ _ _ _ h := ⟨h.1, h.2, h.3, h.4, h.5, h.6, h.7, h.8, h.9, h.10⟩
  append _ k _ _ h := by cases k <;> exact ⟨h.1, h.2, h.3, h.4, h.5, h.6, h.7, h.8, h.9, h.10⟩
  dropHead _ k _ h := by cases k <;> exact ⟨h.1, h.2, h.3, h.4, h.5, h.6, h.7, h.8, h.9, h.10⟩
  handler _ _ _ h := ⟨h.1, h.2, h.3, h.4, h.5, h.6, h.7, h.8, h.9, h.10⟩
  port _ _ h := ⟨h.1, h.2, h.3, h.4, h.5, h.6, h.7, h.8, h.9, h.10⟩
  skipBackground _ h := ⟨h.1, h.2, h.3, h.4, h.5, h.6, h.7, h.8, h.9, h.10⟩
  release _ h := ⟨h.1, h.2, h.3, h.4, h.5, h.6, h.7, h.8, h.9, h.10⟩

/-- The host queue and `rst_cnt` are kept by every small operation. -/
theorem sameQueue_kept (q : List Command) (n : Nat) : KeptByOps (fun u => u.hostq = q ∧ u.rstCnt = n) where
  emit _ _ h := h
  setPushes _ _ h := h
  raiseFault _ _ _ _ h := h
  append _ k _ _ h := by cases k <;> exact h
  dropHead _ k _ h := by cases k <;> exact h
  handler _ _ _ h := h
  port _ _ h := h
  skipBackground _ h := h
  release _ h := h

theorem fetchCommand_sameRegs (s : State) : SameRegs s (fetchCommand s) :=
  ⟨by simp, by simp, by simp, by simp, by simp, by simp, by simp, by simp, by simp, by simp⟩

/-! ### What each part emits -/

/-- The actions an instruction may add to the trace. -/
def mayEmit : Instr → Action → Prop
  | .flush tag _, a =>
    a = .flushAllBufferedWrites ∨ (∃ k e, a = .flushBufferedWritesForEpoch k e) ∨ a = .postCompletion tag.slot 0 0
  | .write tag v, a =>
    a = .translateAndSubmitWriteWithBarrier tag.slot (dwordsOf 0x01#8 v) ∨
      a = .translateAndSubmit tag.slot (startLba v) v.nlb .write
  | .read tag v, a => a = .translateAndSubmit tag.slot (startLba v) v.nlb .read
  | .admin tag dw, a => a = .adminCommandHandler ⟨tag, dw⟩ ∨ ∃ x y z, a = .handlerCompletion x y z
  | .push _ _, _ => False
  | .pop _, _ => False
  | .count _, _ => False

theorem mem_flushesOf {k : StreamId} {es : List Epoch} {a : Action} (h : a ∈ flushesOf k es) :
    ∃ e, a = .flushBufferedWritesForEpoch k e := by
  obtain ⟨e, _, rfl⟩ := List.mem_map.mp h
  exact ⟨e, rfl⟩

/-- What a FLUSH persists is a list of flush actions. -/
theorem persisted_trace (s : State) : ∃ as, (persisted s).trace = s.trace ++ as ∧
    ∀ a ∈ as, a = .flushAllBufferedWrites ∨ ∃ k e, a = .flushBufferedWritesForEpoch k e := by
  unfold persisted
  split
  · obtain ⟨e1, h1⟩ := drainStream_trace .one s
    obtain ⟨e2, h2⟩ := drainStream_trace .two (drainStream .one s)
    unfold andThen
    split
    · exact ⟨_, h1, fun a ha => .inr ⟨_, mem_flushesOf ha⟩⟩
    · refine ⟨flushesOf .one e1 ++ flushesOf .two e2, by rw [h2, h1, List.append_assoc], fun a ha => ?_⟩
      rcases List.mem_append.mp ha with ha | ha
      · exact .inr ⟨_, mem_flushesOf ha⟩
      · exact .inr ⟨_, mem_flushesOf ha⟩
  · exact ⟨[.flushAllBufferedWrites], callPipeline_trace _ _, fun a ha => .inl (List.mem_singleton.mp ha)⟩

theorem checked_trace (v : IoView) (n : Nat) (a : Action) (s : State) :
    (checked (checkIo s.params v n) s (callPipeline a)).trace = s.trace ∨
    (checked (checkIo s.params v n) s (callPipeline a)).trace = s.trace ++ [a] := by
  unfold checked
  split
  · exact .inl rfl
  · exact .inr (callPipeline_trace _ _)

/-- Every meaning only adds to the trace, and only its own actions. -/
theorem exec_trace {i : Instr} (hx : exec i s = .next t) : ∃ as, t.trace = s.trace ++ as ∧ ∀ a ∈ as, mayEmit i a := by
  cases i with
  | flush tag v =>
    obtain ⟨_, rfl⟩ := exec_flush_eq_next hx
    obtain ⟨as, h, ha⟩ := persisted_trace s
    have hm : ∀ a ∈ as, mayEmit (.flush tag v) a := fun a hh => (ha a hh).imp id .inl
    rw [andThen]
    split
    · exact ⟨as, h, hm⟩
    · refine ⟨as ++ [.postCompletion tag.slot 0 0], by rw [emit_trace, h, List.append_assoc], fun a hh => ?_⟩
      rcases List.mem_append.mp hh with hh | hh
      · exact hm a hh
      · exact .inr (.inr (List.mem_singleton.mp hh))
  | write tag v =>
    rw [exec_write, perform_eq_next] at hx
    obtain ⟨_, rfl⟩ := hx
    rcases checked_trace v 16 (if s.params.barrierMode then .translateAndSubmitWriteWithBarrier tag.slot (dwordsOf 0x01#8 v)
        else .translateAndSubmit tag.slot (startLba v) v.nlb .write) s with h | h
    · exact ⟨[], by rw [h, List.append_nil], fun a ha => by simp at ha⟩
    · refine ⟨_, h, fun a ha => ?_⟩
      rw [List.mem_singleton] at ha
      subst ha
      split
      · exact .inl rfl
      · exact .inr rfl
  | read tag v =>
    rw [exec_read, perform_eq_next] at hx
    obtain ⟨_, rfl⟩ := hx
    rcases checked_trace v 4 (.translateAndSubmit tag.slot (startLba v) v.nlb .read) s with h | h
    · exact ⟨[], by rw [h, List.append_nil], fun a ha => by simp at ha⟩
    · exact ⟨_, h, fun a ha => List.mem_singleton.mp ha⟩
  | admin tag dw =>
    rw [exec_admin, perform_eq_next] at hx
    obtain ⟨_, rfl⟩ := hx
    obtain ⟨cs, h⟩ := handlerActs_trace s.inp.handler (emit (.adminCommandHandler ⟨tag, dw⟩) s)
    refine ⟨.adminCommandHandler ⟨tag, dw⟩ :: cs.map (fun c => .handlerCompletion c.1 c.2.1 c.2.2),
      by rw [h, emit_trace, List.append_assoc]; rfl, fun a ha => ?_⟩
    rcases List.mem_cons.mp ha with ha | ha
    · exact .inl ha
    · obtain ⟨c, _, rfl⟩ := List.mem_map.mp ha
      exact .inr ⟨_, _, _, rfl⟩
  | push w e =>
    rw [exec_push, perform_eq_next] at hx
    obtain ⟨_, rfl⟩ := hx
    exact ⟨[], by simp, fun a ha => by simp at ha⟩
  | pop w =>
    rw [exec_pop, perform_eq_next] at hx
    obtain ⟨_, rfl⟩ := hx
    refine ⟨[], ?_, fun a ha => by simp at ha⟩
    rw [List.append_nil]
    simp only [trkPop]
    split
    · rename_i h
      split at h
      · cases h
      · split at h
        · cases h
        · cases h; simp
    · rename_i h
      split at h
      · cases h; simp
      · split at h
        · cases h; simp
        · cases h
  | count w =>
    rw [exec_count, perform_eq_next] at hx
    obtain ⟨_, rfl⟩ := hx
    refine ⟨[], ?_, fun a ha => by simp at ha⟩
    rw [List.append_nil]
    simp only [trkCount]
    cases streamOf w <;> rfl

/-- A tracker-port operation emits nothing. -/
theorem exec_port_trace {r : PortReq} {i : Instr} (hd : decodePort r = some i) (hx : exec i s = .next t) :
    t.trace = s.trace := by
  obtain ⟨as, h, ha⟩ := exec_trace hx
  cases as with
  | nil => rw [h, List.append_nil]
  | cons a as =>
    have hm := ha a (List.mem_cons_self ..)
    unfold decodePort at hd
    split at hd
    · cases hd; exact hm.elim
    · split at hd
      · cases hd; exact hm.elim
      · split at hd
        · cases hd; exact hm.elim
        · cases hd

/-- Handing an I/O command's requests on, and no background scheduling after it (43_control_loop.md R213). -/
theorem afterDispatch_trace (c : Command) (s : State) :
    ((afterDispatch c s).trace = s.trace ∧ (afterDispatch c s).runBg = s.runBg) ∨
    ((afterDispatch c s).trace = s.trace ++ [.flushSubmissionQueueToLowLevel] ∧
      ((afterDispatch c s).halted = false → (afterDispatch c s).runBg = false)) := by
  by_cases h : c.tag.qid = 0
  · rw [afterDispatch_admin h]; exact .inl ⟨rfl, rfl⟩
  · rw [afterDispatch_io h]
    refine .inr ?_
    unfold andThen
    split
    · rename_i hh; exact ⟨callPipeline_trace _ _, fun h => by rw [hh] at h; cases h⟩
    · exact ⟨by simp, fun _ => rfl⟩

/-- Background scheduling adds nothing, the reconciliation, or both its actions. -/
theorem background_trace (s : State) :
    (background s).trace = s.trace ∨
    (s.runBg = true ∧ ((background s).trace = s.trace ++ [.reconcileCompletedDmaRequests] ∨
      (background s).trace = s.trace ++ [.reconcileCompletedDmaRequests, .scheduleStorageRequests])) := by
  unfold background
  split
  · rename_i hb
    rw [Bool.and_eq_true] at hb
    refine .inr ⟨hb.1, ?_⟩
    unfold andThen
    split
    · exact .inl (callPipeline_trace _ _)
    · exact .inr (by simp)
  · exact .inl rfl

theorem clearIoQueuePairs_eq (s : State) :
    clearIoQueuePairs s = { s with
      ioqValid := Vector.replicate 8 false, trace := s.trace ++ clearActions.dropLast } := by
  have h := clearIoQueuePairs_ioqValid s
  simp only [clearIoQueuePairs, List.foldl, clearIoQueuePair_ioqValid] at h
  simp only [clearIoQueuePairs, List.foldl, clearIoQueuePair, emit, h]
  simp [clearActions]

/-- Everything the teardown of the queues does (41_state_controller.md R158). -/
theorem teardownQueues_eq (s : State) :
    teardownQueues s = { s with
      ioqValid := Vector.replicate 8 false, adminQ := .cleared, trace := s.trace ++ clearActions } := by
  unfold teardownQueues
  rw [clearIoQueuePairs_eq]
  simp [clearAdminQueue, emit, clearActions]

/-- The actions of one `StateStep`, in order (41_state_controller.md R151 to R160). -/
def controllerActions (s : State) : List Action :=
  match s.ctlState with
  | .idle => []
  | .waitCcEn => if s.inp.ccEn then [.setAdminQueue 1 1, .writeCstsRdy true] else []
  | .running =>
    if s.inp.ccShn ≠ 0#2 then
      clearActions ++ [.writeCstsShst 1#2, .writeCstsShst 2#2, .persistGrownBadBlockTable s.params.bbtBufBase]
    else []
  | .shutdown => []
  | .waitReset => if s.inp.ccEn then [] else [.writeCstsShst 0#2, .writeCstsRdy false]
  | .reset =>
    clearActions ++ [.writeCstsShst 0#2, .writeCstsRdy false] ++
      (if s.inp.resetForce ∧ s.rstCnt + 1 = Config.resetEscalate then [.linkResetAsync] else [])

/-- `StateStep` only adds to the trace, and only these actions. -/
theorem stateStep_trace (s : State) : (stateStep s).trace = s.trace ++ controllerActions s := by
  unfold stateStep controllerActions
  cases s.ctlState with
  | idle => simp [idleArm]
  | waitCcEn => simp only [waitCcEnArm]; split <;> simp
  | running => simp only [runningArm]; split <;> simp [shutdownTeardown]
  | shutdown => simp [shutdownArm]
  | waitReset => simp only [waitResetArm]; split <;> simp
  | reset =>
    simp only [resetArm]
    cases s.inp.resetForce with
    | false => simp [resetVisit]
    | true =>
      have hr : (resetVisit s).rstCnt = s.rstCnt := by simp [resetVisit]
      by_cases h : s.rstCnt + 1 = Config.resetEscalate
      · simp only [countResetVisit, hr, h, if_true]; simp
      · simp only [countResetVisit, hr, h, if_true, if_false]; simp

/-! ### The middle of a tick -/

/-- Steps 3 and 4 of a tick that a fault has ended. -/
theorem finishTick_of_halted (h : s.halted = true) : finishTick s = s := by
  unfold finishTick
  rw [andThen_of_halted _ _ h, andThen_of_halted _ _ h]

/-- Steps 3 and 4 of a tick that no fault has ended. -/
theorem finishTick_of_running (h : s.halted = false) : finishTick s = background (stateStep s) := by
  unfold finishTick
  rw [andThen_of_running _ _ h, andThen_of_running _ _ (by simpa using h)]

theorem background_sameRegs (hs : s.halted = false) : SameRegs s (background s) :=
  (sameRegs_kept s).background hs (.refl s)

/-- The state that steps 3 and 4 of a tick begin from: it has the registers and the inputs that the poll found; a fault has
ended the tick only in RUNNING; and the poll and the dispatch have added actions of the poll and of one instruction. -/
structure Middle (b u : State) : Prop where
  same : SameRegs b u
  running_of_halted : b.halted = false → u.halted = true → b.ctlState = .running
  rstCnt : u.rstCnt = b.rstCnt ∨ (u.rstCnt = 0 ∧ b.ctlState = .running)
  trace : (b.ctlState ≠ .running ∧ u.trace = b.trace ∧ u.runBg = b.runBg) ∨
    (b.ctlState = .running ∧ ∃ as, u.trace = b.trace ++ .fetchCommand :: as ∧
      (as = [] ∨ ∃ c q i bs, polled b = some (c, q) ∧ decodeCommand c = .ok i ∧ (∀ a ∈ bs, mayEmit i a) ∧
        (as = bs ∨
          (as = bs ++ [.flushSubmissionQueueToLowLevel] ∧ (u.halted = false → u.runBg = false)))))

/-- Every tick that answers a next state is a middle state and then steps 3 and 4. -/
theorem tick_middle {inp : Inputs} (h : tick exec inp v = .next t) : ∃ u, Middle (beginTick inp v) u ∧ t = finishTick u := by
  rcases tick_cases h with ⟨hr, rfl⟩ | ⟨hr, hp, rfl⟩ | ⟨c, q, op, hr, hp, hd, rfl⟩ | ⟨c, q, i, u, hr, hp, hd, hx, rfl⟩
  · exact ⟨_, ⟨.refl _, fun h1 h2 => absurd (h1.symm.trans h2) (by decide), .inl rfl, .inl ⟨hr, rfl, rfl⟩⟩, rfl⟩
  · refine ⟨_, ⟨fetchCommand_sameRegs _, fun _ _ => hr, .inl ?_, .inr ⟨hr, [], fetchCommand_trace _, .inl rfl⟩⟩, rfl⟩
    rw [fetchCommand_none hp, emit_rstCnt]
  · have hk := sameRegs_kept (beginTick inp v)
    refine ⟨_, ⟨hk.release _ (hk.raiseFault _ _ _ (by decide) (fetchCommand_sameRegs _)), fun _ _ => hr, .inr ⟨?_, hr⟩,
      .inr ⟨hr, [], ?_, .inl rfl⟩⟩, rfl⟩
    · rw [fetchCommand_some hp]; rfl
    · exact fetchCommand_trace _
  · have hk := sameRegs_kept (beginTick inp v)
    have hu := hk.exec hx (fetchCommand_sameRegs _)
    have hq := sameQueue_kept q 0
    have hu' := hq.exec hx (by rw [fetchCommand_some hp]; exact ⟨rfl, rfl⟩)
    have hc := hq.release _ (andThen_keeps (P := fun u => u.hostq = q ∧ u.rstCnt = 0) hu' fun hs => hq.afterDispatch c hs hu')
    refine ⟨_, ⟨hk.release _ (andThen_keeps hu fun hs => hk.afterDispatch c hs hu), fun _ _ => hr, .inr ⟨hc.2, hr⟩, ?_⟩,
      rfl⟩
    obtain ⟨bs, hb, hm⟩ := exec_trace hx
    rw [fetchCommand_trace, List.append_assoc] at hb
    cases hh : u.halted with
    | true =>
      rw [andThen_of_halted _ _ hh]
      exact .inr ⟨hr, bs, hb, .inr ⟨c, q, i, bs, hp, hd, hm, .inl rfl⟩⟩
    | false =>
      rw [andThen_of_running _ _ hh]
      rcases afterDispatch_trace c u with ⟨ha, _⟩ | ⟨ha, hbg⟩
      · exact .inr ⟨hr, bs, ha.trans hb, .inr ⟨c, q, i, bs, hp, hd, hm, .inl rfl⟩⟩
      · refine .inr ⟨hr, bs ++ [.flushSubmissionQueueToLowLevel], ?_, .inr ⟨c, q, i, bs, hp, hd, hm, .inr ⟨rfl, hbg⟩⟩⟩
        exact ha.trans (by rw [hb]; simp)

end Sys2Proof.Machine
end

