-- ==== Sys2Proof/Tests/Slice0.lean ====
section
/-! SUPPORT. The model's own tests: ill-formed instructions refused, words decoded, single steps whose expected results are the
vectors of 95_test_vectors.md, and, for each obligation with hypotheses, a witness that meets them. -/

open Sys2Proof Sys2Proof.Machine

namespace Sys2Proof.Tests

/-! ### Commands and states -/

/-- Sixteen dwords with those the vectors name, the others 0. -/
def dws (dw0 dw6 dw7 dw8 dw10 dw11 dw12 : Word) : Dwords :=
  ⟨dw0, 0#32, 0#32, 0#32, 0#32, 0#32, dw6, dw7, dw8, 0#32, dw10, dw11, dw12, 0#32, 0#32, 0#32⟩

/-- The READ of 30_encoding.md R110 and vector V1. -/
def readV1 : Command := ⟨⟨1, 5, 0⟩, dws 0x00000002#32 0x00002000#32 0#32 0x00003000#32 0x00001000#32 0#32 0x00000009#32⟩

/-- The WRITE of vector V19. -/
def writeV19 : Command := ⟨⟨1, 7, 0⟩, dws 0x00000001#32 0x00004010#32 0#32 0#32 0x00000020#32 0#32 0#32⟩

/-- The FLUSH of vector V23. -/
def flushV23 : Command := ⟨⟨1, 2, 0⟩, dws 0#32 0#32 0#32 0#32 0#32 0#32 0#32⟩

/-- The admin command of vector V28. -/
def adminV28 : Command := ⟨⟨0, 1, 0⟩, dws 0x0000007F#32 0#32 0#32 0#32 0#32 0#32 0#32⟩

/-- An I/O command of slot 6 with opcode `op`. -/
def commandOp (op : Word) : Command := ⟨⟨1, 6, 0⟩, dws op 0#32 0#32 0#32 0#32 0#32 0#32⟩

/-- The view of zeros. -/
def view0 : IoView := viewOf (dws 0#32 0#32 0#32 0#32 0#32 0#32 0#32)

/-- A view with the PRP1 halves and the LBA words given. -/
def viewWith (prp1Lo prp1Hi lbaLow lbaHigh : Word) : IoView :=
  viewOf (dws 0#32 prp1Lo prp1Hi 0#32 lbaLow lbaHigh 0#32)

/-- The RUNNING start of 95_test_vectors.md section 2. -/
def running : State :=
  { State.reset with booted := true, ctlState := .running, cstsRdy := true, adminQ := .armed 1 1 }

/-- A booted block in lifecycle state `c`. -/
def inState (c : CtlState) : State := { State.reset with booted := true, ctlState := c }

/-- The draws of a tick whose poll returns the command `c`, queued in the same tick. -/
def fetching (c : Command) : Inputs := { Inputs.quiet with arrivals := [c], fetch := some 0 }

/-- `s` with a tick of draws `inp` next. -/
def withTick (inp : Inputs) (s : State) : State := { s with script := [.tick inp] }

/-- `s` in barrier mode. -/
def barrier (s : State) : State := { s with params := { s.params with barrierMode := true } }

/-- `s` under the REFERENCE capacity check. -/
def reference (s : State) : State := { s with params := { s.params with capCheck := .reference } }

/-- `s` with stream 1 holding [3, 4] and stream 2 holding [9]. -/
def holding (s : State) : State := { s with trk1 := ⟨[(0, 3#32), (1, 4#32)], 0, 2, 2⟩, trk2 := ⟨[(0, 9#32)], 0, 1, 1⟩ }

/-- `s` with a stream 1 of `n` epochs, all of them the sentinel, from head 0. -/
def filled (n : Nat) (s : State) : State := { s with trk1 := ⟨[], 0, ⟨n % 256, Nat.mod_lt _ (by decide)⟩, n⟩ }

/-- The next state, if the step answers one. -/
def next (o : Host.Outcome State Fault Refusal) : Option State :=
  match o with
  | .next s => some s
  | .fault _ => none
  | .refused _ => none

/-- The trace of the next state. -/
def traceOf (o : Host.Outcome State Fault Refusal) : Option (List Machine.Action) := (next o).map (·.trace)

/-- The fault state of the next state. -/
def faultOf (o : Host.Outcome State Fault Refusal) : Option (Bool × FaultCode × FaultInfo) :=
  (next o).map fun s => (s.halted, s.faultCode, s.faultInfo)

/-! ### WellFormed smoke -/

theorem test_wf_refuses_wide_qid : Instr.wf Config.testParams (.read ⟨65536, 0, 0⟩ view0) = false := by decide
theorem test_wf_refuses_wide_slot : Instr.wf Config.testParams (.write ⟨1, 65536, 0⟩ view0) = false := by decide
theorem test_wf_refuses_wide_seq : Instr.wf Config.testParams (.flush ⟨1, 0, 65536⟩ view0) = false := by decide
theorem test_wf_refuses_wide_admin_slot : Instr.wf Config.testParams (.admin ⟨0, 65536, 0⟩ adminV28.dw) = false := by decide
theorem test_wf_refuses_flush_on_queue_0 : Instr.wf Config.testParams (.flush ⟨0, 0, 0⟩ view0) = false := by decide
theorem test_wf_refuses_write_on_queue_0 : Instr.wf Config.testParams (.write ⟨0, 0, 0⟩ view0) = false := by decide
theorem test_wf_refuses_read_on_queue_0 : Instr.wf Config.testParams (.read ⟨0, 0, 0⟩ view0) = false := by decide
theorem test_wf_refuses_admin_on_io_queue : Instr.wf Config.testParams (.admin ⟨1, 0, 0⟩ adminV28.dw) = false := by decide

/-! ### Decoding words written out from 30_encoding.md R101, R104, R105 and R108 -/

/-- The word of a READ with bits set above the opcode and above NLB (V16): they are ignored by the decode. -/
theorem test_decode_read : decodeTableWord 32 0b11111111111111110000000000000010 =
    some (.read ⟨1, 0, 0⟩ { view0 with dw0Rest := 0xFFFF00#24 }) := by decide
/-- Opcode bits 00000001. -/
theorem test_decode_write : decodeCommand writeV19 = .ok (.write ⟨1, 7, 0⟩ (viewOf writeV19.dw)) := by decide
/-- Opcode bits 00000000. -/
theorem test_decode_flush : decodeCommand flushV23 = .ok (.flush ⟨1, 2, 0⟩ view0) := by decide
/-- Any opcode on queue 0 (V28). -/
theorem test_decode_admin : decodeCommand adminV28 = .ok (.admin ⟨0, 1, 0⟩ adminV28.dw) := by decide
/-- `trk_op` bits 00, stream 1, epoch 3. -/
theorem test_decode_push : decodePort ⟨0b00#2, 1#32, 3#32⟩ = some (.push 1#32 3#32) := by decide
/-- `trk_op` bits 01. -/
theorem test_decode_pop : decodePort ⟨0b01#2, 2#32, 0#32⟩ = some (.pop 2#32) := by decide
/-- `trk_op` bits 10. -/
theorem test_decode_count : decodePort ⟨0b10#2, 2#32, 0#32⟩ = some (.count 2#32) := by decide
/-- `trk_op` bits 11 are no operation (R108). -/
theorem test_decode_rejects_trk_op_3 : decode (.port ⟨0b11#2, 1#32, 0#32⟩) = .error .notAnOperation := by decide
/-- Opcodes 0x03 and 0x7F are unsupported (V17, V18). -/
theorem test_decode_rejects_unsupported : decode (.command (commandOp 0x03#32)) = .error (.unsupportedOpcode 0x03#8) ∧
    decode (.command (commandOp 0x7F#32)) = .error (.unsupportedOpcode 0x7F#8) := by decide
/-- The fields of the worked encoding of R110: every dword where R101 puts it. -/
theorem test_decode_fields : decodeCommand readV1 = .ok (.read ⟨1, 5, 0⟩ (viewOf readV1.dw)) ∧
    startLba (viewOf readV1.dw) = 0x1000#64 ∧ nblocks (viewOf readV1.dw).nlb = 10#17 ∧
    prpValue .prp1 (viewOf readV1.dw) = 0x2000#64 ∧ prpValue .prp2 (viewOf readV1.dw) = 0x3000#64 := by decide

/-! ### Single steps: the tracker (95_test_vectors.md, 3.1) -/

/-- T1. -/
theorem test_push : (next (exec (.push 1#32 3#32) running)).map (fun s => (s.trk1, s.trk2)) =
    some (⟨[(0, 3#32)], 0, 1, 1⟩, BarrierStream.empty) := by decide
/-- T3. -/
theorem test_push_bad_stream : faultOf (exec (.push 3#32 5#32) running) = some (true, .trkBadStream, .word 3#32) := by decide
/-- T11, its third POP: head 255 wraps to 0. -/
theorem test_pop_wraps : (next (exec (.pop 2#32) { running with trk2 := ⟨[(0, 0xB#32), (255, 0xA#32)], 255, 1, 2⟩ })).map
    (fun s => (s.trk2, s.portResult)) = some (⟨[(0, 0xB#32)], 0, 1, 1⟩, .epoch 0xA#32) := by decide
/-- T10, its 257th POP: the slot the first POP cleared. -/
theorem test_pop_overflowed : (next (exec (.pop 1#32) (reference { running with trk1 := ⟨[], 0, 1, 1⟩ }))).map
    (fun s => (s.trk1, s.portResult)) = some (⟨[], 1, 1, 0⟩, .epoch 0xFFFFFFFF#32) := by decide
/-- T15. -/
theorem test_count : (next (exec (.count 1#32) { running with trk1 := ⟨[(0, 0xFFFFFFFE#32)], 0, 1, 1⟩ })).map
    (fun s => (s.trk1.count, s.portResult)) = some (1, .count 1#9) := by decide
/-- T6, its second COUNT. -/
theorem test_count_bad_stream : faultOf (exec (.count 7#32) running) = some (true, .trkBadStream, .word 7#32) := by decide

/-! ### Single steps: the commands (3.2), each a whole tick -/

/-- V1 and L2: a pending condition, but no background scheduling after an I/O command. -/
theorem test_read : traceOf (step (withTick { fetching readV1 with dmaPending := true } running)) =
    some [.fetchCommand, .translateAndSubmit 5 0x1000#64 9#16 .read, .flushSubmissionQueueToLowLevel] := by decide
/-- V14: PRP1's ceiling before PRP2's alignment. -/
theorem test_read_first_fault : faultOf (exec (.read ⟨1, 2, 0⟩
    (viewOf (dws 2#32 0x2000#32 0x10000#32 0x3001#32 0#32 0#32 0#32))) running) =
    some (true, .prpHighRange, .prp .prp1 0x10000#32) := by decide
/-- V20: aligned for a READ, not for a WRITE. -/
theorem test_write_alignment : faultOf (exec (.write ⟨1, 7, 0⟩ (viewWith 0x4004#32 0#32 0x20#32 0#32)) running) =
    some (true, .prpMisaligned, .prp .prp1 0x4004#32) := by decide
/-- L9: the PUSH at the return of the hand-over lands in stream 2. -/
theorem test_write : (next (step (withTick { fetching writeV19 with pushes := [[], [⟨2#32, 0x10#32⟩]] } running))).map
    (fun s => (s.trace, s.trk2)) =
    some ([.fetchCommand, .translateAndSubmit 7 0x20#64 0#16 .write, .flushSubmissionQueueToLowLevel],
      ⟨[(0, 0x10#32)], 0, 1, 1⟩) := by decide
/-- V23. -/
theorem test_flush_barrier : (next (exec (.flush ⟨1, 2, 0⟩ view0) (holding (barrier running)))).map
    (fun s => (s.trace, s.trk1, s.trk2)) =
    some ([.flushBufferedWritesForEpoch .one 3#32, .flushBufferedWritesForEpoch .one 4#32,
      .flushBufferedWritesForEpoch .two 9#32, .postCompletion 2 0 0], ⟨[], 2, 2, 0⟩, ⟨[], 1, 1, 0⟩) := by decide
/-- V25: epochs pushed while the drain runs. -/
theorem test_flush_pushes : (next (exec (.flush ⟨1, 2, 0⟩ view0) { barrier running with
    trk1 := ⟨[(0, 3#32)], 0, 1, 1⟩, trk2 := ⟨[(0, 9#32)], 0, 1, 1⟩
    inp := { Inputs.quiet with pushes := [[⟨1#32, 5#32⟩], [], [⟨1#32, 6#32⟩]] } })).map
    (fun s => (s.trace, s.trk1, s.trk2.count)) =
    some ([.flushBufferedWritesForEpoch .one 3#32, .flushBufferedWritesForEpoch .one 5#32,
      .flushBufferedWritesForEpoch .two 9#32, .postCompletion 2 0 0], ⟨[(2, 6#32)], 2, 3, 1⟩, 0) := by decide
/-- P5, its first tick: the handler's acts, and background scheduling after an admin command. -/
theorem test_admin : (next (step (withTick { fetching adminV28 with
    nandOutstanding := true, handler := [.setIoq 0 true, .setCache true] } running))).map
    (fun s => (s.trace, s.ioqValid.toList, s.cacheEn)) =
    some ([.fetchCommand, .adminCommandHandler adminV28, .reconcileCompletedDmaRequests, .scheduleStorageRequests],
      [true, false, false, false, false, false, false, false], true) := by decide

/-! ### Single steps: the controller and the loop (3.3, 3.4) -/

/-- L0. -/
theorem test_boot : (next (step State.reset)).map (fun s => (s.trace, s.booted, s.ctlState)) =
    some ([.initFtl], true, .idle) := by decide
/-- S3. -/
theorem test_enable : (next (step (withTick { Inputs.quiet with enableEvt := true, ccEn := true, timerNow := 0x64 }
    (inState .idle)))).map (fun s => (s.trace, s.ctlState, s.adminQ, s.flushTimerBase)) =
    some ([.setAdminQueue 1 1, .writeCstsRdy true], .running, .armed 1 1, 0x64) := by decide
/-- L6. -/
theorem test_shutdown : (next (step (withTick { Inputs.quiet with ccShn := 1#2, dmaPending := true } running))).map
    (fun s => (s.trace, s.ctlState, s.cstsShst, s.cstsRdy)) =
    some ([.fetchCommand, .clearIoQueuePair 0, .clearIoQueuePair 1, .clearIoQueuePair 2, .clearIoQueuePair 3,
      .clearIoQueuePair 4, .clearIoQueuePair 5, .clearIoQueuePair 6, .clearIoQueuePair 7, .clearAdminQueue,
      .writeCstsShst 1#2, .writeCstsShst 2#2, .persistGrownBadBlockTable 0x00100000, .reconcileCompletedDmaRequests,
      .scheduleStorageRequests], .shutdown, 2#2, true) := by decide
/-- S16: `enable_evt` is not read in RESET. -/
theorem test_leave_reset : (next (step (withTick { Inputs.quiet with enableEvt := true }
    { inState .reset with rstCnt := 2 }))).map (fun s => (s.ctlState, s.rstCnt)) = some (.idle, 0) := by decide
/-- S13. -/
theorem test_link_reset : (next (step (withTick { Inputs.quiet with resetForce := true }
    { inState .reset with rstCnt := 4 }))).map (fun s => (s.trace.getLast?, s.ctlState, s.rstCnt)) =
    some (some .linkResetAsync, .reset, 0) := by decide
/-- L7: a PUSH that faults ends the tick between the two actions of step 4. -/
theorem test_push_fault_ends_tick : (next (step (withTick { Inputs.quiet with
    dmaPending := true, pushes := [[⟨1#32, 0x77#32⟩]] } (filled 256 running)))).map
    (fun s => (s.trace, s.faultCode, s.faultInfo)) =
    some ([.fetchCommand, .reconcileCompletedDmaRequests], .trkFull, .word 1#32) := by decide
/-- V17 in a tick. -/
theorem test_unsupported : (next (step (withTick (fetching (commandOp 0x7F#32)) running))).map
    (fun s => (s.trace, s.faultCode, s.faultInfo)) = some ([.fetchCommand], .badOpcode, .word 0x7F#32) := by decide
/-- The word the host places is the next instruction: a FLUSH of zeros. -/
theorem test_fetch_word : traceOf (step (State.reset.withFetchWord 32 0)) =
    some [.fetchCommand, .flushAllBufferedWrites, .postCompletion 0 0 0, .flushSubmissionQueueToLowLevel] := by decide
/-- An answer of the tracker port that was placed as a word: COUNT of stream 2. -/
theorem test_fetch_word_port : (next (step (State.reset.withFetchWord 2 (2 + 2 * 256)))).map (·.portResult) =
    some (.count 0#9) := by decide

/-! ### Witnesses: states and operands that meet the hypotheses of the obligations -/

/-- An outcome that is a next state with the property `P`. -/
theorem next_with {o : Host.Outcome State Fault Refusal} (P : State → Bool) (h : (next o).any P = true) :
    ∃ t, o = .next t ∧ P t = true := by
  cases o with
  | next s => exact ⟨s, rfl, by simpa [next] using h⟩
  | fault r => simp [next] at h
  | refused r => simp [next] at h

/-- The state a tick on `withTick inp s` begins from. -/
def begun (inp : Inputs) (s : State) : State := { withTick inp s with script := [] }

theorem tickOn_withTick (inp : Inputs) {s : State} (hh : s.halted = false) (hb : s.booted = true) :
    TickOn (withTick inp s) inp (begun inp s) := ⟨hh, hb, .inl ⟨[], rfl, rfl⟩⟩

theorem noBlockReset_withTick (inp : Inputs) (s : State) : NoBlockReset (withTick inp s) := fun _ _ h => nomatch h

theorem noBlockReset_of_nil {s : State} (h : s.script = []) : NoBlockReset s := fun _ _ hh => by rw [h] at hh; cases hh

theorem notTickOn_reset : ∀ inp v, ¬ TickOn State.reset inp v := fun _ _ h => absurd h.2.1 (by decide)

/-- A stream of sentinels, all of whose slots are sentinels, is as it should be, up to 257 epochs. -/
theorem streamOk_filled (p : Params) (n : Nat) (hn : n ≤ maxCount p.capCheck) :
    StreamOk p ⟨[], 0, ⟨n % 256, Nat.mod_lt _ (by decide)⟩, n⟩ :=
  ⟨rfl, hn, by simp [slotOf, Config.trkCap], fun _ _ _ => rfl⟩

theorem trackerInv_reset : TrackerInv State.reset := fun k => by cases k <;> exact StreamOk.empty _

theorem trackerInv_running : TrackerInv running := fun k => by cases k <;> exact StreamOk.empty _

theorem trackerInv_holding : TrackerInv (holding (barrier running)) := by
  have h := StreamOk.empty (barrier running).params
  have hc : ∀ n, n < 256 → capacityExceeded (barrier running).params.capCheck n = false := fun n hn => by
    show decide (n ≥ 256) = false
    simp; omega
  intro k
  cases k with
  | one =>
    have h2 := (h.append (hc 0 (by decide)) 3#32).append (hc 1 (by decide)) 4#32
    rwa [show ((BarrierStream.empty.append (barrier running).params.epochInvalid 3#32).append
      (barrier running).params.epochInvalid 4#32) = trk (holding (barrier running)) .one by decide] at h2
  | two =>
    have h1 := h.append (hc 0 (by decide)) 9#32
    rwa [show BarrierStream.empty.append (barrier running).params.epochInvalid 9#32 =
      trk (holding (barrier running)) .two by decide] at h1

theorem witness_DecodeAfterEncode :
    Instr.wf Config.testParams (.flush ⟨1, 65535, 65535⟩ view0) = true ∧
    Instr.wf Config.testParams (.write ⟨65535, 0, 0⟩ (viewOf writeV19.dw)) = true ∧
    Instr.wf Config.testParams (.read ⟨1, 5, 0⟩ (viewOf readV1.dw)) = true ∧
    Instr.wf Config.testParams (.admin ⟨0, 65535, 0⟩ adminV28.dw) = true ∧
    Instr.wf Config.testParams (.push 1#32 3#32) = true ∧ Instr.wf Config.testParams (.pop 3#32) = true ∧
    Instr.wf Config.testParams (.count 0#32) = true := by decide

theorem witness_EncodeAfterDecode :
    (decodeCommand readV1 = .ok (.read ⟨1, 5, 0⟩ (viewOf readV1.dw)) ∧ readV1.tag.fits Config.testParams = true) ∧
    decodeCommand adminV28 = .ok (.admin ⟨0, 1, 0⟩ adminV28.dw) ∧ adminV28.tag.fits Config.testParams = true := by decide

theorem witness_DecodeFollowsTheOpcode :
    (commandOp 0#32).tag.qid ≠ 0 ∧ (commandOp 0x100#32).dw.dw0.toNat % 256 = 0 ∧
    (commandOp 0x101#32).dw.dw0.toNat % 256 = 1 ∧ (commandOp 2#32).dw.dw0.toNat % 256 = 2 ∧
    3 ≤ (commandOp 3#32).dw.dw0.toNat % 256 ∧ 3 ≤ (commandOp 0xFF#32).dw.dw0.toNat % 256 := by decide

theorem witness_TickFollowsItsSteps : running.halted = false ∧ (raiseFault .trkEmpty (.word 1#32) running).halted = true := by
  decide

theorem witness_StepRunsTheFetchedCommand :
    TickOn (withTick (fetching readV1) running) (fetching readV1) (begun (fetching readV1) running) ∧
    (beginTick (fetching readV1) (begun (fetching readV1) running)).ctlState = .running ∧
    polled (beginTick (fetching readV1) (begun (fetching readV1) running)) = some (readV1, []) ∧
    decodeCommand readV1 = .ok (.read ⟨1, 5, 0⟩ (viewOf readV1.dw)) :=
  ⟨tickOn_withTick _ rfl rfl, by decide, by decide, by decide⟩

/-- The draws of a tick that fetches a READ and at whose second return, that of the hand-over, the environment pushes on a stream
that does not exist. -/
def handOverFault : Inputs := { fetching readV1 with pushes := [[], [⟨3#32, 1#32⟩]] }

/-- The state an I/O command's hand-over leaves. -/
def handedOver (u : State) : State :=
  pushAll (u.inp.pushes.headD []) { u with
    trace := u.trace ++ [.flushSubmissionQueueToLowLevel], inp := { u.inp with pushes := u.inp.pushes.tail } }

/-- For IoDispatchHandsOver: a READ whose hand-over goes well, one at whose hand-over a PUSH faults, and an admin command. -/
theorem witness_IoDispatchHandsOver :
    (TickOn (withTick (fetching readV1) running) (fetching readV1) (begun (fetching readV1) running) ∧
      (beginTick (fetching readV1) (begun (fetching readV1) running)).ctlState = .running ∧
      polled (beginTick (fetching readV1) (begun (fetching readV1) running)) = some (readV1, []) ∧
      decodeCommand readV1 = .ok (.read ⟨1, 5, 0⟩ (viewOf readV1.dw)) ∧ readV1.tag.qid ≠ 0 ∧
      ∃ u, exec (.read ⟨1, 5, 0⟩ (viewOf readV1.dw))
          (fetchCommand (beginTick (fetching readV1) (begun (fetching readV1) running))) = .next u ∧
        decide (u.halted = false ∧ (handedOver u).halted = false) = true) ∧
    (TickOn (withTick handOverFault running) handOverFault (begun handOverFault running) ∧
      (beginTick handOverFault (begun handOverFault running)).ctlState = .running ∧
      polled (beginTick handOverFault (begun handOverFault running)) = some (readV1, []) ∧
      ∃ u, exec (.read ⟨1, 5, 0⟩ (viewOf readV1.dw))
          (fetchCommand (beginTick handOverFault (begun handOverFault running))) = .next u ∧
        decide (u.halted = false ∧ (handedOver u).halted = true) = true) ∧
    (TickOn (withTick (fetching adminV28) running) (fetching adminV28) (begun (fetching adminV28) running) ∧
      (beginTick (fetching adminV28) (begun (fetching adminV28) running)).ctlState = .running ∧
      polled (beginTick (fetching adminV28) (begun (fetching adminV28) running)) = some (adminV28, []) ∧
      decodeCommand adminV28 = .ok (.admin ⟨0, 1, 0⟩ adminV28.dw) ∧ adminV28.tag.qid = 0 ∧
      ∃ u, exec (.admin ⟨0, 1, 0⟩ adminV28.dw)
          (fetchCommand (beginTick (fetching adminV28) (begun (fetching adminV28) running))) = .next u ∧
        u.halted == false) :=
  ⟨⟨tickOn_withTick _ rfl rfl, by decide, by decide, by decide, by decide, next_with _ (by decide)⟩,
    ⟨tickOn_withTick _ rfl rfl, by decide, by decide, next_with _ (by decide)⟩,
    tickOn_withTick _ rfl rfl, by decide, by decide, by decide, by decide, next_with _ (by decide)⟩

theorem witness_StepWithoutACommand :
    TickOn (withTick .quiet (inState .idle)) .quiet (begun .quiet (inState .idle)) ∧
    (beginTick .quiet (begun .quiet (inState .idle))).ctlState ≠ .running ∧
    TickOn (withTick { Inputs.quiet with fetch := some 0 } running) { Inputs.quiet with fetch := some 0 }
      (begun { Inputs.quiet with fetch := some 0 } running) ∧
    (beginTick { Inputs.quiet with fetch := some 0 } (begun { Inputs.quiet with fetch := some 0 } running)).ctlState =
      .running ∧
    polled (beginTick { Inputs.quiet with fetch := some 0 } (begun { Inputs.quiet with fetch := some 0 } running)) = none :=
  ⟨tickOn_withTick _ rfl rfl, by decide, tickOn_withTick _ rfl rfl, by decide, by decide⟩

theorem witness_StepRunsThePortRequest :
    { running with script := [.port ⟨3#2, 1#32, 0#32⟩] }.script = .port ⟨3#2, 1#32, 0#32⟩ :: [] ∧
    { running with script := [.port ⟨2#2, 1#32, 0#32⟩] }.script = .port ⟨2#2, 1#32, 0#32⟩ :: [] ∧
    (2#2 : BitVec 2) ≠ 3#2 ∧ running.halted = false ∧ running.booted = true := by decide

/-- For UnsupportedOpcodeHalts and UnsupportedOpcodeFrame, at the first and the last unsupported opcode. -/
theorem witness_UnsupportedOpcode : ∀ op ∈ [0x03#32, 0xFF#32],
    TickOn (withTick (fetching (commandOp op)) running) (fetching (commandOp op)) (begun (fetching (commandOp op)) running) ∧
    (beginTick (fetching (commandOp op)) (begun (fetching (commandOp op)) running)).ctlState = .running ∧
    polled (beginTick (fetching (commandOp op)) (begun (fetching (commandOp op)) running)) = some (commandOp op, []) ∧
    (commandOp op).tag.qid ≠ 0 ∧ 3 ≤ (commandOp op).dw.dw0.toNat % 256 := by
  intro op ho
  refine ⟨tickOn_withTick _ rfl rfl, ?_⟩
  simp only [List.mem_cons, List.not_mem_nil, or_false] at ho
  rcases ho with rfl | rfl
  · decide
  · exact ⟨rfl, rfl, by decide, by decide⟩

theorem witness_InitFtlExactlyOnce :
    NoBlockReset State.reset ∧ State.reset.halted = false ∧ State.reset.booted = false ∧
    (∃ t, step State.reset = .next t ∧ decide (.initFtl ∈ t.trace) = true) ∧
    ∃ t, step (withTick .quiet running) = .next t ∧ t.booted = true :=
  ⟨noBlockReset_of_nil rfl, rfl, rfl, next_with _ (by decide), next_with _ (by decide)⟩

theorem witness_HaltedBlockTakesNoStep :
    (raiseFault .trkEmpty (.word 1#32) running).halted = true ∧
    NoBlockReset (withTick .quiet (raiseFault .trkEmpty (.word 1#32) running)) := ⟨rfl, noBlockReset_withTick _ _⟩

theorem witness_BlockResetRestoresTheResetState :
    { raiseFault .trkEmpty (.word 1#32) running with script := [.blockReset 7] }.script = .blockReset 7 :: [] := rfl

/-- A bad stream on either side of 1 and 2; STRICT at 255 and 256 epochs; REFERENCE at 256 and 257. -/
theorem witness_PushFollowsItsRule :
    running.halted = false ∧ (0#32 : Word) ≠ 1#32 ∧ (0#32 : Word) ≠ 2#32 ∧ (3#32 : Word) ≠ 1#32 ∧ (3#32 : Word) ≠ 2#32 ∧
    (1#32 : Word) = streamWord .one ∧
    capacityExceeded (filled 256 running).params.capCheck (trk (filled 256 running) .one).count = true ∧
    capacityExceeded (filled 255 running).params.capCheck (trk (filled 255 running) .one).count = false ∧
    (trk (filled 255 running) .one).buf.wf running.params.epochInvalid = true ∧
    capacityExceeded (filled 257 (reference running)).params.capCheck (trk (filled 257 running) .one).count = true ∧
    capacityExceeded (filled 256 (reference running)).params.capCheck (trk (filled 256 running) .one).count = false :=
  ⟨rfl, by decide, by decide, by decide, by decide, rfl, rfl, rfl, rfl, rfl, rfl⟩

theorem witness_PushesAtAReturnRunInOrder : running.halted = false := rfl

theorem witness_PopFollowsItsRule :
    running.halted = false ∧ (2#32 : Word) = streamWord .two ∧ (trk running .two).count = 0 ∧
    (trk (holding running) .two).count ≠ 0 ∧ (trk (holding running) .two).buf.wf running.params.epochInvalid = true := by
  decide

theorem witness_CountObserves : running.halted = false ∧ (1#32 : Word) = streamWord .one ∧ (7#32 : Word) ≠ 1#32 ∧
    (7#32 : Word) ≠ 2#32 := by decide

/-- At 255 epochs under both checks, at 256 under both, and at 257 under REFERENCE. -/
theorem witness_CapacityBoundary :
    (StreamOk (filled 255 running).params (trk (filled 255 running) .one) ∧ (trk (filled 255 running) .one).count < 256 ∧
      StreamOk (filled 255 (reference running)).params (trk (filled 255 (reference running)) .one)) ∧
    ((filled 256 running).halted = false ∧ StreamOk (filled 256 running).params (trk (filled 256 running) .one) ∧
      (filled 256 running).params.capCheck = .strict ∧ (trk (filled 256 running) .one).count = 256) ∧
    (StreamOk (filled 256 (reference running)).params (trk (filled 256 (reference running)) .one) ∧
      (filled 256 (reference running)).params.capCheck = .reference ∧
      (trk (filled 256 (reference running)) .one).count = 256) ∧
    StreamOk (filled 257 (reference running)).params (trk (filled 257 (reference running)) .one) ∧
      (trk (filled 257 (reference running)) .one).count = 257 :=
  ⟨⟨streamOk_filled _ 255 (by decide), by decide, streamOk_filled _ 255 (by decide)⟩,
    ⟨rfl, streamOk_filled _ 256 (by decide), rfl, rfl⟩, ⟨streamOk_filled _ 256 (by decide), rfl, rfl⟩,
    streamOk_filled _ 257 (by decide), rfl⟩

theorem witness_StreamsAreIndependent : (2#32 : Word) ≠ streamWord .one ∧
    (∃ t, exec (.push 2#32 9#32) running = .next t ∧ t.trk2.count == 1) ∧
    (∃ t, exec (.pop 2#32) (holding running) = .next t ∧ t.trk2.count == 0) ∧
    ∃ t, exec (.count 2#32) running = .next t ∧ t.halted == false :=
  ⟨by decide, next_with _ (by decide), next_with _ (by decide), next_with _ (by decide)⟩

/-- T13; and a run of stream 1 while stream 2 holds 257 epochs. -/
theorem witness_PopsAreInPushOrder :
    (StreamOk running.params (trk running .one) ∧ (trk running .one).count ≤ 256 ∧
      (runTrkOps .one
        [.push .one 10#32, .push .one 11#32, .pop .one, .push .one 12#32, .push .two 99#32, .count .one, .pop .one, .pop .one]
        running).map (·.1) = some [10#32, 11#32, 12#32]) ∧
    StreamOk (reference running).params (trk { reference running with trk2 := ⟨[], 0, 1, 257⟩ } .one) ∧
    (runTrkOps .one [.push .one 10#32, .pop .two, .push .two 5#32, .pop .one]
      { reference running with trk2 := ⟨[], 0, 1, 257⟩ }).map (fun r => (r.1, r.2.trk2.count)) = some ([10#32], 257) :=
  ⟨⟨trackerInv_running .one, by decide, by decide⟩, StreamOk.empty _, by decide⟩

theorem witness_OverflowedStreamPops :
    (filled 257 (reference running)).halted = false ∧ (filled 257 (reference running)).params.capCheck = .reference ∧
    StreamOk (filled 257 (reference running)).params (trk (filled 257 (reference running)) .one) ∧
    (trk (filled 257 (reference running)) .one).count = 257 := ⟨rfl, rfl, streamOk_filled _ 257 (by decide), rfl⟩

theorem witness_StepKeepsTheTrackerInvariant : TrackerInv (withTick (fetching readV1) running) ∧
    ∃ t, step (withTick (fetching readV1) running) = .next t ∧ t.halted == false :=
  ⟨trackerInv_running, next_with _ (by decide)⟩

theorem witness_ResetMeetsTheInvariants : 2 ^ 32 - 1 < 2 ^ Config.testParams.timerW := by decide

/-- The low word at its bound, the high word at its bound, and both within. -/
theorem witness_LbaOutOfRangeHalts :
    (PrpInRange running.params view0.prp1Lo view0.prp1Hi 4 ∧ PrpInRange running.params view0.prp2Lo view0.prp2Hi 16) ∧
    ¬ (viewWith 0#32 0#32 0x01000000#32 0#32).lbaLow < running.params.storageCapacityL ∧
    (viewWith 0#32 0#32 0x00FFFFFF#32 1#32).lbaLow < running.params.storageCapacityL ∧
    ¬ ((viewWith 0#32 0#32 0x00FFFFFF#32 1#32).lbaHigh = 0#32 ∨
      (viewWith 0#32 0#32 0x00FFFFFF#32 1#32).lbaHigh < running.params.storageCapacityH) ∧
    ((viewWith 0#32 0#32 0x00FFFFFF#32 0#32).lbaHigh = 0#32 ∨
      (viewWith 0#32 0#32 0x00FFFFFF#32 0#32).lbaHigh < running.params.storageCapacityH) := by
  unfold PrpInRange; decide

/-- READ and WRITE, PRP1 and PRP2, each just misaligned, and each high half at the ceiling. -/
theorem witness_PrpViolationHalts :
    (LbaInRange running.params view0 ∧ PrpInRange running.params view0.prp1Lo view0.prp1Hi 16) ∧
    (viewWith 0x2002#32 0#32 0#32 0#32).prp1Lo.toNat % 4 ≠ 0 ∧ (viewWith 0x4004#32 0#32 0#32 0#32).prp1Lo.toNat % 16 ≠ 0 ∧
    (viewWith 0x2004#32 0x10000#32 0#32 0#32).prp1Lo.toNat % 4 = 0 ∧
    ¬ (viewWith 0x2004#32 0x10000#32 0#32 0#32).prp1Hi < running.params.prpHiCeil ∧
    { view0 with prp2Lo := 0x5008#32 }.prp2Lo.toNat % 16 ≠ 0 ∧
    ¬ { view0 with prp2Hi := 0x10000#32 }.prp2Hi < running.params.prpHiCeil ∧ 0#32 < running.params.prpHiCeil := by
  unfold LbaInRange PrpInRange; decide

/-- V11, V12, V13: several bad fields at once. -/
theorem witness_FirstFailingCheckWins :
    ¬ (viewWith 0x2001#32 0#32 0x01000000#32 5#32).lbaLow < running.params.storageCapacityL ∧
    LbaInRange running.params (viewWith 0x2001#32 0x10000#32 0#32 0#32) ∧
    (viewWith 0x2001#32 0x10000#32 0#32 0#32).prp1Lo.toNat % 4 ≠ 0 ∧
    ¬ (viewWith 0x2000#32 0x10000#32 0#32 0#32).prp1Hi < running.params.prpHiCeil := by
  unfold LbaInRange; decide

theorem witness_ReadSubmitsOnce :
    running.halted = false ∧ LbaInRange running.params (viewOf readV1.dw) ∧
    PrpInRange running.params (viewOf readV1.dw).prp1Lo (viewOf readV1.dw).prp1Hi 4 ∧
    PrpInRange running.params (viewOf readV1.dw).prp2Lo (viewOf readV1.dw).prp2Hi 4 ∧ running.inp.pushes = [] ∧
    (setPushes [[⟨3#32, 1#32⟩]] running).inp.pushes = [⟨3#32, 1#32⟩] :: [] := by
  unfold LbaInRange PrpInRange; decide

theorem witness_WriteSubmitsOnce :
    running.halted = false ∧ LbaInRange running.params (viewOf writeV19.dw) ∧
    PrpInRange running.params (viewOf writeV19.dw).prp1Lo (viewOf writeV19.dw).prp1Hi 16 ∧
    PrpInRange running.params (viewOf writeV19.dw).prp2Lo (viewOf writeV19.dw).prp2Hi 16 ∧
    running.params.barrierMode = false ∧ (barrier running).params.barrierMode = true ∧
    encode (.write ⟨1, 7, 0⟩ (viewOf writeV19.dw)) = .command ⟨⟨1, 7, 0⟩, writeV19.dw⟩ ∧ running.inp.pushes = [] := by
  unfold LbaInRange PrpInRange; decide

theorem witness_IoCommandFrame :
    (∃ t, exec (.read ⟨1, 5, 0⟩ (viewOf readV1.dw)) running = .next t ∧ t.halted == false) ∧
    (∃ t, exec (.write ⟨1, 7, 0⟩ (viewOf writeV19.dw)) (barrier running) = .next t ∧ t.halted == false) ∧
    ∃ t, exec (.flush ⟨1, 2, 0⟩ view0) (holding (barrier running)) = .next t ∧ t.halted == false :=
  ⟨next_with _ (by decide), next_with _ (by decide), next_with _ (by decide)⟩

theorem witness_IgnoredBitsHaveNoEffect :
    view0.prp1Lo = { view0 with dw13 := 1#32, dw0Rest := 0xFF#24, dw12Rest := 0xABCD#16 }.prp1Lo ∧
    view0 ≠ { view0 with dw13 := 1#32, dw0Rest := 0xFF#24, dw12Rest := 0xABCD#16 } ∧ running.params.barrierMode = false := by
  decide

/-- For FlushWithoutBarrier, BarrierFlushDrainsInOrder and BarrierFlushFlushesTheContents. -/
theorem witness_Flush :
    running.halted = false ∧ running.params.barrierMode = false ∧ running.inp.pushes = [] ∧
    (setPushes [[⟨1#32, 5#32⟩]] running).inp.pushes = [⟨1#32, 5#32⟩] :: [] ∧
    (holding (barrier running)).halted = false ∧ (holding (barrier running)).params.barrierMode = true ∧
    (holding (barrier running)).inp.pushes = [] ∧ (holding (barrier running)).inp.pushesNeverEnd = false ∧
    TrackerInv (holding (barrier running)) :=
  ⟨rfl, rfl, rfl, rfl, rfl, rfl, rfl, rfl, trackerInv_holding⟩

/-- A barrier FLUSH on an overflowed stream 1, for BarrierFlushFlushesTheContents. -/
theorem witness_FlushOverflowed :
    TrackerInv (filled 257 (reference (barrier running))) ∧ (filled 257 (reference (barrier running))).trk1.count = 257 ∧
    (filled 257 (reference (barrier running))).params.barrierMode = true ∧
    (filled 257 (reference (barrier running))).inp.pushesNeverEnd = false :=
  ⟨fun k => by cases k; exact streamOk_filled _ 257 (by decide); exact StreamOk.empty _, rfl, rfl, rfl⟩

/-- For BarrierFlushDrainsInOrder: a PUSH that halts the block in the drain of stream 1, in that of stream 2, and in neither. -/
theorem witness_BarrierFlushDrainsInOrder :
    (drainStream .one (setPushes [[⟨3#32, 1#32⟩]] (holding (barrier running)))).halted = true ∧
    (drainStream .one (setPushes [[], [], [⟨3#32, 1#32⟩]] (holding (barrier running)))).halted = false ∧
    (drainStream .two (drainStream .one (setPushes [[], [], [⟨3#32, 1#32⟩]] (holding (barrier running))))).halted = true ∧
    (drainStream .one (holding (barrier running))).halted = false ∧
    (drainStream .one (holding (barrier running))).trk1.count = 0 ∧
    (drainStream .two (drainStream .one (holding (barrier running)))).halted = false ∧
    (drainStream .two (drainStream .one (holding (barrier running)))).trk2.count = 0 ∧
    (drainStream .one (setPushes [[], [], [⟨3#32, 1#32⟩]] (holding (barrier running)))).trk1.count = 0 ∧
    (∃ t, exec (.flush ⟨1, 2, 0⟩ view0) (setPushes [[⟨3#32, 1#32⟩]] (holding (barrier running))) = .next t ∧
      t.halted == true) ∧
    ∃ t, exec (.flush ⟨1, 2, 0⟩ view0) (holding (barrier running)) = .next t ∧ t.halted == false :=
  ⟨by decide, by decide, by decide, by decide, by decide, by decide, by decide, by decide, next_with _ (by decide),
    next_with _ (by decide)⟩

/-- `s` under an environment that, after the PUSH lists `ls`, pushes onto the drained stream for ever. -/
def endless (ls : List (List PushReq)) (s : State) : State :=
  { s with inp := { s.inp with pushes := ls, pushesNeverEnd := true } }

/-- For EndlessDrainIsStuck (42_io_commands.md R181): one epoch of stream 1 is flushed, its return brings a PUSH, and from then on every return does. -/
theorem witness_EndlessDrainFault : exec (.flush ⟨1, 2, 0⟩ view0) (endless [[⟨1#32, 5#32⟩]] (holding (barrier running))) =
    .fault (.drainNeverEnds .one [.flushBufferedWritesForEpoch .one 3#32]) := by rfl

/-- The draws of a tick that fetches the FLUSH of V23 and in which the environment pushes for ever. -/
def endlessFlush : Inputs := { fetching flushV23 with pushesNeverEnd := true }

/-- For EndlessDrainIsStuck: stuck in stream 1, stuck in stream 2, and a whole tick stuck. -/
theorem witness_EndlessDrainIsStuck :
    ((drainStream .one (endless [] (holding (barrier running)))).halted = false ∧
      (drainStream .one (endless [] (holding (barrier running)))).trk1.count ≠ 0) ∧
    ((drainStream .one (endless [[], []] (holding (barrier running)))).halted = false ∧
      (drainStream .one (endless [[], []] (holding (barrier running)))).trk1.count = 0 ∧
      (drainStream .two (drainStream .one (endless [[], []] (holding (barrier running))))).halted = false ∧
      (drainStream .two (drainStream .one (endless [[], []] (holding (barrier running))))).trk2.count ≠ 0) ∧
    TickOn (withTick endlessFlush (holding (barrier running))) endlessFlush (begun endlessFlush (holding (barrier running))) ∧
    (beginTick endlessFlush (begun endlessFlush (holding (barrier running)))).ctlState = .running ∧
    polled (beginTick endlessFlush (begun endlessFlush (holding (barrier running)))) = some (flushV23, []) ∧
    decodeCommand flushV23 = .ok (.flush ⟨1, 2, 0⟩ view0) ∧
    exec (.flush ⟨1, 2, 0⟩ view0) (fetchCommand (beginTick endlessFlush (begun endlessFlush (holding (barrier running))))) =
      .fault (.drainNeverEnds .one [.fetchCommand]) :=
  ⟨⟨by decide, by decide⟩, ⟨by decide, by decide, by decide, by decide⟩, tickOn_withTick _ rfl rfl, by decide, by decide,
    by decide, by rfl⟩

/-- For PushingAtEveryReturnKeepsTheDrainGoing, at the largest counts of both capacity checks. -/
theorem witness_PushingAtEveryReturnKeepsTheDrainGoing :
    ((filled 256 running).halted = false ∧ (trk (filled 256 running) .one).count ≠ 0 ∧
      (trk (filled 256 running) .one).count ≤ maxCount (filled 256 running).params.capCheck) ∧
    (trk (filled 257 (reference running)) .one).count ≤ maxCount (filled 257 (reference running)).params.capCheck := by
  decide

/-- For DrainFollowsItsLoop and DrainFlushesWhatIsPushed, with epochs pushed on both streams. -/
theorem witness_Drain :
    (trk running .one).count = 0 ∧ (holding (barrier running)).halted = false ∧ (trk (holding (barrier running)) .one).count ≠ 0 ∧
    (setPushes [[⟨1#32, 5#32⟩], [⟨2#32, 6#32⟩]] (holding (barrier running))).params.capCheck = .strict ∧
    TrackerInv (setPushes [[⟨1#32, 5#32⟩], [⟨2#32, 6#32⟩]] (holding (barrier running))) ∧
    (drainStream .one (setPushes [[⟨1#32, 5#32⟩], [⟨2#32, 6#32⟩]] (holding (barrier running)))).halted = false ∧
    (drainStream .one (setPushes [[⟨1#32, 5#32⟩], [⟨2#32, 6#32⟩]] (holding (barrier running)))).trk1.count = 0 ∧
    StreamId.two ≠ StreamId.one ∧ (holding (barrier running)).inp.pushesNeverEnd = false ∧
    (endless [] running).inp.pushes = [] ∧ (endless [] running).inp.pushesNeverEnd = true ∧
    (endless [[]] running).inp.pushes ≠ [] :=
  ⟨by decide, by decide, by decide, by decide, fun k => trackerInv_holding k, by decide, by decide, by decide, by decide,
    by decide, by decide, by decide⟩

theorem witness_AdminForwardsTheCommand : running.halted = false ∧
    ∃ t, exec (.admin ⟨0, 1, 0⟩ adminV28.dw) { running with
        inp := { Inputs.quiet with handler := [.setIoq 0 true, .setIoq 0 false, .setCache true, .complete 1 0 0] } } = .next t ∧
      decide (t.ioqValid[0] = false ∧ t.cacheEn = true) = true := ⟨rfl, next_with _ (by decide)⟩

theorem witness_EnableHandshake :
    (inState .waitCcEn).ctlState = .waitCcEn ∧ (inState .waitCcEn).inp.ccEn = false ∧
    { inState .waitCcEn with inp := { Inputs.quiet with ccEn := true } }.inp.ccEn = true ∧
    ∃ t, step (withTick { Inputs.quiet with enableEvt := true } (inState .idle)) = .next t ∧
      decide (t.ctlState = .waitCcEn) = true := ⟨rfl, rfl, rfl, next_with _ (by decide)⟩

theorem witness_ShutdownNotification :
    running.ctlState = .running ∧ running.inp.ccShn = 0#2 ∧
    { running with inp := { Inputs.quiet with ccShn := 3#2 } }.inp.ccShn ≠ 0#2 := by decide

theorem witness_ShutdownStepsOn :
    TickOn (withTick .quiet (inState .shutdown)) .quiet (begun .quiet (inState .shutdown)) ∧
    (withTick .quiet (inState .shutdown)).ctlState = .shutdown ∧ Inputs.quiet.resetForce = false ∧
    ∃ t, step (withTick .quiet (inState .shutdown)) = .next t ∧ t.halted == false :=
  ⟨tickOn_withTick _ rfl rfl, rfl, rfl, next_with _ (by decide)⟩

theorem witness_WaitResetAndIdle :
    (inState .idle).ctlState = .idle ∧ (inState .waitReset).ctlState = .waitReset ∧ (inState .waitReset).inp.ccEn = false ∧
    { inState .waitReset with inp := { Inputs.quiet with ccEn := true } }.inp.ccEn = true := by decide

/-- At counter 3, 4 and with the forcing gone. -/
theorem witness_ResetVisits :
    (inState .reset).ctlState = .reset ∧ (inState .reset).inp.resetForce = false ∧
    { inState .reset with inp := { Inputs.quiet with resetForce := true } }.inp.resetForce = true ∧
    { inState .reset with rstCnt := 3 }.rstCnt ≠ 4 ∧ { inState .reset with rstCnt := 4 }.rstCnt = 4 := by decide

/-- For LifecycleTable, PollsOnceInRunning and QueuedCommandsWait: a tick in each of RUNNING and IDLE, and a boot. -/
theorem witness_TickOrNot :
    (TickOn (withTick (fetching readV1) running) (fetching readV1) (begun (fetching readV1) running) ∧
      ∃ t, step (withTick (fetching readV1) running) = .next t ∧ t.halted == false) ∧
    (TickOn (withTick (fetching readV1) (inState .idle)) (fetching readV1) (begun (fetching readV1) (inState .idle)) ∧
      ∃ t, step (withTick (fetching readV1) (inState .idle)) = .next t ∧ t.hostq == [readV1]) ∧
    NoBlockReset State.reset ∧ (∀ inp v, ¬ TickOn State.reset inp v) ∧ ∃ t, step State.reset = .next t ∧ t.booted = true :=
  ⟨⟨tickOn_withTick _ rfl rfl, next_with _ (by decide)⟩, ⟨tickOn_withTick _ rfl rfl, next_with _ (by decide)⟩,
    noBlockReset_of_nil rfl, notTickOn_reset, next_with _ (by decide)⟩

/-- Five forced ticks from RUNNING (P3). -/
theorem witness_ResetEscalation :
    (∀ j, j < 5 → ∃ inp : Inputs, ({ running with
      script := List.replicate 5 (.tick { Inputs.quiet with resetForce := true }) } : State).script[j]? = some (.tick inp) ∧
        inp.resetForce = true) ∧
    running.booted = true ∧ running.rstCnt = 0 ∧
    (runState 5 { running with script := List.replicate 5 (.tick { Inputs.quiet with resetForce := true }) }).isSome = true :=
  ⟨fun j hj => ⟨{ Inputs.quiet with resetForce := true }, by
      show (List.replicate 5 _)[j]? = _
      rw [List.getElem?_replicate, if_pos hj], rfl⟩, rfl, rfl, by decide⟩

theorem statusInv_running : StatusInv running := ⟨by decide, by decide, by decide, by decide, by decide⟩

/-- For the status, fault and width invariants, ParametersNeverChange, CstsRdyIsTheLastWritten and CstsShstIsTheLastWritten: a
shutdown tick. -/
theorem witness_Invariants :
    StatusInv (withTick { Inputs.quiet with ccShn := 1#2 } running) ∧
    FaultInv (withTick { Inputs.quiet with ccShn := 1#2 } running) ∧
    WidthInv (withTick { Inputs.quiet with ccShn := 1#2 } running) ∧
    NoBlockReset (withTick { Inputs.quiet with ccShn := 1#2 } running) ∧
    (∃ t, exec (.pop 1#32) running = .next t ∧ t.halted = true) ∧
    ∃ t, step (withTick { Inputs.quiet with ccShn := 1#2 } running) = .next t ∧
      decide (t.cstsShst = 2#2 ∧ .writeCstsShst 1#2 ∈ t.trace) = true :=
  ⟨⟨by decide, by decide, by decide, by decide, by decide⟩, ⟨by decide, fun _ => rfl⟩,
    ⟨rfl, by decide, by decide⟩, noBlockReset_withTick _ _, next_with _ (by decide), next_with _ (by decide)⟩

/-- A READ and an unsupported command, each with a pending condition. -/
theorem witness_DispatchExcludesBackground : ∀ c ∈ [readV1, commandOp 0x7F#32],
    TickOn (withTick { fetching c with dmaPending := true } running) { fetching c with dmaPending := true }
      (begun { fetching c with dmaPending := true } running) ∧
    (beginTick { fetching c with dmaPending := true } (begun { fetching c with dmaPending := true } running)).ctlState =
      .running ∧
    polled (beginTick { fetching c with dmaPending := true } (begun { fetching c with dmaPending := true } running)) =
      some (c, []) ∧
    c.tag.qid ≠ 0 ∧
    ∃ t, step (withTick { fetching c with dmaPending := true } running) = .next t ∧
      decide (.flushSubmissionQueueToLowLevel ∈ t.trace ↔ c = readV1) = true := by
  intro c hc
  refine ⟨tickOn_withTick _ rfl rfl, ?_⟩
  simp only [List.mem_cons, List.not_mem_nil, or_false] at hc
  rcases hc with rfl | rfl
  · exact ⟨by decide, by decide, by decide, next_with _ (by decide)⟩
  · exact ⟨by decide, by decide, by decide, next_with _ (by decide)⟩

/-- `s` in a tick with a pending condition and the PUSH lists `ls`. -/
def pending (ls : List (List PushReq)) (s : State) : State :=
  { s with runBg := true, inp := { Inputs.quiet with dmaPending := true, pushes := ls } }

/-- The state the reconciliation of step 4 leaves. -/
def reconciled (s : State) : State :=
  pushAll (s.inp.pushes.headD []) { s with
    trace := s.trace ++ [.reconcileCompletedDmaRequests], inp := { s.inp with pushes := s.inp.pushes.tail } }

/-- With a PUSH at each return, with one that faults between the two (L7), with none, and without a pending condition. -/
theorem witness_BackgroundScheduling :
    (pending [[⟨1#32, 4#32⟩], [⟨2#32, 5#32⟩]] running).runBg = true ∧
    (pending [[⟨1#32, 4#32⟩], [⟨2#32, 5#32⟩]] running).inp.dmaPending = true ∧
    (pending [[⟨1#32, 4#32⟩], [⟨2#32, 5#32⟩]] running).halted = false ∧
    (reconciled (pending [[⟨1#32, 4#32⟩], [⟨2#32, 5#32⟩]] running)).halted = false ∧
    (reconciled (pending [[⟨1#32, 0x77#32⟩]] (filled 256 running))).halted = true ∧
    (pending [] running).inp.pushes = [] ∧ running.runBg = false ∧
    (running.inp.dmaPending = false ∧ running.inp.nandOutstanding = false ∧ running.inp.reqBlocked = false) := by decide

theorem witness_CompletionsAreOfFlushes :
    ∃ t, step (withTick (fetching flushV23) running) = .next t ∧ decide (.postCompletion 2 0 0 ∈ t.trace) = true :=
  next_with _ (by decide)

/-- The WRITE of P4, misaligned for a WRITE. -/
def writeP4 : Command := ⟨⟨2, 9, 0⟩, dws 1#32 0x4004#32 0#32 0#32 0#32 0#32 0#32⟩

/-- The READ of V14: PRP1's high half at the ceiling. -/
def readV14 : Command := ⟨⟨1, 2, 0⟩, dws 2#32 0x2000#32 0x10000#32 0x3001#32 0#32 0#32 0#32⟩

/-- For MalformedCommandEmitsNothing: a READ. -/
theorem witness_MalformedRead :
    TickOn (withTick (fetching readV14) running) (fetching readV14) (begun (fetching readV14) running) ∧
    (beginTick (fetching readV14) (begun (fetching readV14) running)).ctlState = .running ∧
    polled (beginTick (fetching readV14) (begun (fetching readV14) running)) = some (readV14, []) ∧
    decodeCommand readV14 = .ok (.read readV14.tag (viewOf readV14.dw)) ∧
    ¬ (LbaInRange running.params (viewOf readV14.dw) ∧
      PrpInRange running.params (viewOf readV14.dw).prp1Lo (viewOf readV14.dw).prp1Hi 4 ∧
      PrpInRange running.params (viewOf readV14.dw).prp2Lo (viewOf readV14.dw).prp2Hi 4) :=
  ⟨tickOn_withTick _ rfl rfl, by decide, by decide, by decide, by unfold LbaInRange PrpInRange; decide⟩

/-- For FaultEndsTheTick and MalformedCommandEmitsNothing. -/
theorem witness_Malformed :
    TickOn (withTick (fetching writeP4) running) (fetching writeP4) (begun (fetching writeP4) running) ∧
    (beginTick (fetching writeP4) (begun (fetching writeP4) running)).ctlState = .running ∧
    polled (beginTick (fetching writeP4) (begun (fetching writeP4) running)) = some (writeP4, []) ∧
    decodeCommand writeP4 = .ok (.write writeP4.tag (viewOf writeP4.dw)) ∧
    (∃ u, exec (.write writeP4.tag (viewOf writeP4.dw)) (fetchCommand (beginTick (fetching writeP4)
      (begun (fetching writeP4) running))) = .next u ∧ u.halted = true) ∧
    ¬ (LbaInRange running.params (viewOf writeP4.dw) ∧
      PrpInRange running.params (viewOf writeP4.dw).prp1Lo (viewOf writeP4.dw).prp1Hi 16 ∧
      PrpInRange running.params (viewOf writeP4.dw).prp2Lo (viewOf writeP4.dw).prp2Hi 16) ∧
    ∃ t, step (withTick (fetching writeP4) running) = .next t ∧ t.halted = true :=
  ⟨tickOn_withTick _ rfl rfl, by decide, by decide, by decide, next_with _ (by decide),
    by unfold LbaInRange PrpInRange; decide, next_with _ (by decide)⟩

end Sys2Proof.Tests
end

section
/-! SUPPORT and PROOFS of the state registers' statements: the boot's action and the two controller status registers. A tick is
quiet up to the state controller's step, then emits that step's actions, then is quiet again; so whatever it says about
`InitFtl`, `WriteCstsRdy` and `WriteCstsShst` it says through `controllerActions`. -/

namespace Sys2Proof.Machine

variable {s t u v : State}

/-! ### The actions of the boot and of the state controller -/

/-- `InitFtl` and the two status writes (10_state.md R62, R63, R68). -/
def isBootOrStatus : Action → Bool
  | .initFtl => true
  | .writeCstsRdy _ => true
  | .writeCstsShst _ => true
  | _ => false

/-- A list of actions with no `InitFtl` and no status write. -/
def Quiet (as : List Action) : Prop := ∀ a ∈ as, isBootOrStatus a = false

theorem quiet_nil : Quiet [] := fun _ h => nomatch h

theorem quiet_cons {a : Action} {as : List Action} : Quiet (a :: as) ↔ isBootOrStatus a = false ∧ Quiet as :=
  List.forall_mem_cons

theorem quiet_append {as bs : List Action} : Quiet (as ++ bs) ↔ Quiet as ∧ Quiet bs := List.forall_mem_append

/-- No instruction emits an action of the boot or a status write. -/
theorem isBootOrStatus_of_mayEmit {i : Instr} {a : Action} (h : mayEmit i a) : isBootOrStatus a = false := by
  cases i with
  | flush => obtain rfl | ⟨k, e, rfl⟩ | rfl := h <;> rfl
  | write => obtain rfl | rfl := h <;> rfl
  | read => obtain rfl := h; rfl
  | admin => obtain rfl | ⟨x, y, z, rfl⟩ := h <;> rfl
  | push | pop | count => exact h.elim

/-- The actions a tick may emit: not `InitFtl`, which is the boot's (10_state.md R68), and not `WriteCstsShst(3)` (R37). -/
def isTickAction : Action → Bool
  | .initFtl => false
  | .writeCstsShst w => w != 3#2
  | _ => true

theorem shst_of_isTickAction {w : BitVec 2} (h : isTickAction (.writeCstsShst w) = true) : w = 0#2 ∨ w = 1#2 ∨ w = 2#2 := by
  revert w; decide

theorem Quiet.isTickAction {as : List Action} (h : Quiet as) : ∀ a ∈ as, isTickAction a = true := by
  intro a ha
  have hq := h a ha
  cases a with
  | initFtl | writeCstsShst => cases hq
  | _ => rfl

/-- Every arm of the state controller emits actions of a tick. -/
theorem isTickAction_of_mem_controllerActions (s : State) : ∀ a ∈ controllerActions s, isTickAction a = true := by
  unfold controllerActions
  cases s.ctlState with
  | idle | shutdown => exact fun _ h => nomatch h
  | waitCcEn | running | waitReset | reset => dsimp only; split <;> simp [isTickAction, clearActions]

/-! ### The status registers after a list of actions -/

/-- The two status registers of `t` are those of `s` after the writes that stand in `as`. -/
structure StatusAfter (s : State) (as : List Action) (t : State) : Prop where
  rdy : t.cstsRdy = lastRdy s.cstsRdy as
  shst : t.cstsShst = lastShst s.cstsShst as

theorem StatusAfter.trans {as bs : List Action} (h : StatusAfter s as u) (h' : StatusAfter u bs t) :
    StatusAfter s (as ++ bs) t where
  rdy := by rw [h'.rdy, h.rdy, lastRdy, lastRdy, lastRdy, List.foldl_append]
  shst := by rw [h'.shst, h.shst, lastShst, lastShst, lastShst, List.foldl_append]

theorem lastRdy_of_quiet {as : List Action} (h : Quiet as) (b : Bool) : lastRdy b as = b := by
  induction as with
  | nil => rfl
  | cons a as ih =>
    obtain ⟨ha, has⟩ := quiet_cons.mp h
    cases a with
    | writeCstsRdy => cases ha
    | _ => exact ih has

theorem lastShst_of_quiet {as : List Action} (h : Quiet as) (w : BitVec 2) : lastShst w as = w := by
  induction as with
  | nil => rfl
  | cons a as ih =>
    obtain ⟨ha, has⟩ := quiet_cons.mp h
    cases a with
    | writeCstsShst => cases ha
    | _ => exact ih has

/-- Actions that write no status register go with registers that stay. -/
theorem SameRegs.statusAfter {as : List Action} (h : SameRegs s t) (hq : Quiet as) : StatusAfter s as t where
  rdy := by rw [h.cstsRdy, lastRdy_of_quiet hq]
  shst := by rw [h.cstsShst, lastShst_of_quiet hq]

/-- After the clears of a RESET visit the status registers stay (41_state_controller.md R160). -/
theorem resetArm_status (s : State) :
    (resetArm s).cstsRdy = (resetVisit s).cstsRdy ∧ (resetArm s).cstsShst = (resetVisit s).cstsShst := by
  unfold resetArm countResetVisit
  split
  · split <;> exact ⟨rfl, rfl⟩
  · exact ⟨rfl, rfl⟩

/-- In every arm of `StateStep` the register writes are the actions it emits. -/
theorem stateStep_statusAfter (s : State) : StatusAfter s (controllerActions s) (stateStep s) := by
  unfold stateStep controllerActions
  cases s.ctlState with
  | idle => exact ⟨rfl, rfl⟩
  | waitCcEn => dsimp only [waitCcEnArm]; split <;> exact ⟨rfl, rfl⟩
  | running =>
    dsimp only [runningArm]
    split
    · exact ⟨by simp [lastRdy, clearActions], by simp [lastShst, clearActions]⟩
    · exact ⟨rfl, rfl⟩
  | shutdown => exact ⟨rfl, rfl⟩
  | waitReset => dsimp only [waitResetArm]; split <;> exact ⟨rfl, rfl⟩
  | reset =>
    have hvisit : StatusAfter s (clearActions ++ [.writeCstsShst 0#2, .writeCstsRdy false]) (resetVisit s) := ⟨rfl, rfl⟩
    obtain ⟨hrdy, hshst⟩ := resetArm_status s
    refine hvisit.trans ⟨hrdy.trans (lastRdy_of_quiet ?_ _).symm, hshst.trans (lastShst_of_quiet ?_ _).symm⟩
    all_goals split <;> simp [Quiet, isBootOrStatus]

/-! ### A tick and a step -/

/-- The poll and the dispatch are quiet. -/
theorem Middle.quiet {b : State} (h : Middle b u) (hb : Quiet b.trace) : Quiet u.trace := by
  obtain ⟨_, ht, _⟩ | ⟨_, as, ht, has⟩ := h.trace
  · rwa [ht]
  · rw [ht, quiet_append, quiet_cons]
    refine ⟨hb, rfl, ?_⟩
    obtain rfl | ⟨_, _, i, bs, _, _, hm, hbs⟩ := has
    · exact quiet_nil
    · have hq : Quiet bs := fun a ha => isBootOrStatus_of_mayEmit (hm a ha)
      obtain rfl | ⟨rfl, _⟩ := hbs
      · exact hq
      · exact quiet_append.mpr ⟨hq, quiet_cons.mpr ⟨rfl, quiet_nil⟩⟩

/-- Background scheduling is quiet. -/
theorem background_quiet (s : State) : ∃ bs, (background s).trace = s.trace ++ bs ∧ Quiet bs := by
  obtain h | ⟨_, h | h⟩ := background_trace s
  · exact ⟨[], by rw [h, List.append_nil], quiet_nil⟩
  · exact ⟨_, h, by unfold Quiet; decide⟩
  · exact ⟨_, h, by unfold Quiet; decide⟩

/-- Everything a tick does to the registers and the trace: a quiet poll and dispatch up to `u`, and, unless a fault has ended
the tick there, `StateStep` and quiet background scheduling. -/
theorem tick_around_stateStep {inp : Inputs} (h : tick exec inp v = .next t) :
    ∃ u, SameRegs (beginTick inp v) u ∧ Quiet u.trace ∧
      (t = u ∨ ∃ bs, Quiet bs ∧ SameRegs (stateStep u) t ∧ t.trace = u.trace ++ controllerActions u ++ bs) := by
  obtain ⟨u, hm, rfl⟩ := tick_middle h
  refine ⟨u, hm.same, hm.quiet (by rw [beginTick_trace]; exact quiet_nil), ?_⟩
  cases hh : u.halted with
  | true => exact .inl (finishTick_of_halted hh)
  | false =>
    rw [finishTick_of_running hh]
    obtain ⟨bs, hbs, hq⟩ := background_quiet (stateStep u)
    exact .inr ⟨bs, hq, background_sameRegs (by rw [stateStep_halted, hh]), by rw [hbs, stateStep_trace]⟩

theorem tick_booted {inp : Inputs} (h : tick exec inp v = .next t) : t.booted = v.booted := by
  obtain ⟨u, hu, -, rfl | ⟨_, -, ht, -⟩⟩ := tick_around_stateStep h
  · rw [hu.booted, beginTick_booted]
  · rw [ht.booted, stateStep_booted, hu.booted, beginTick_booted]

/-- A tick emits neither `InitFtl` nor `WriteCstsShst(3)`. -/
theorem tick_emits {inp : Inputs} (h : tick exec inp v = .next t) : ∀ a ∈ t.trace, isTickAction a = true := by
  obtain ⟨u, -, hq, rfl | ⟨bs, hbs, -, ht⟩⟩ := tick_around_stateStep h
  · exact hq.isTickAction
  · rw [ht, List.forall_mem_append, List.forall_mem_append]
    exact ⟨⟨hq.isTickAction, isTickAction_of_mem_controllerActions u⟩, hbs.isTickAction⟩

theorem tick_statusAfter {inp : Inputs} (h : tick exec inp v = .next t) : StatusAfter v t.trace t := by
  have hv : StatusAfter v [] (beginTick inp v) := ⟨beginTick_cstsRdy _ _, beginTick_cstsShst _ _⟩
  obtain ⟨u, hu, hq, rfl | ⟨bs, hbs, ht, htr⟩⟩ := tick_around_stateStep h
  · exact hv.trans (hu.statusAfter hq)
  · rw [htr]
    exact ((hv.trans (hu.statusAfter hq)).trans (stateStep_statusAfter u)).trans (ht.statusAfter hbs)

/-- A tick begins from the registers of the state the step is taken in. -/
theorem TickOn.sameStatus {inp : Inputs} (h : TickOn s inp v) :
    v.booted = s.booted ∧ v.cstsRdy = s.cstsRdy ∧ v.cstsShst = s.cstsShst := by
  obtain ⟨-, -, ⟨_, -, rfl⟩ | ⟨-, -, rfl⟩⟩ := h <;> exact ⟨rfl, rfl, rfl⟩

/-- The status registers follow the actions of every step but a block reset. -/
theorem step_statusAfter (hn : NoBlockReset s) (h : step s = .next t) : StatusAfter s t.trace t := by
  obtain ⟨timer, rest, hs, -⟩ | ⟨-, -, -, rfl⟩ | ⟨-, inp, v, hv, ht⟩ | ⟨-, -, -, r, rest, i, -, hd, hx⟩ := step_cases h
  · exact absurd hs (hn timer rest)
  · exact ⟨rfl, rfl⟩
  · obtain ⟨-, hrdy, hshst⟩ := hv.sameStatus
    obtain ⟨hr, hw⟩ := tick_statusAfter ht
    exact ⟨by rw [hr, hrdy], by rw [hw, hshst]⟩
  · have hk := (sameRegs_kept _).exec hx (.refl _)
    rw [exec_port_trace hd hx]
    exact ⟨hk.cstsRdy, hk.cstsShst⟩

/-- What a step emits is `InitFtl` as the boot of a block that has not booted, or an action of a tick. -/
theorem step_emits (h : step s = .next t) : ∀ a ∈ t.trace,
    (a = .initFtl ∧ s.booted = false ∧ t.booted = true) ∨ isTickAction a = true := by
  intro a ha
  obtain ⟨timer, rest, -, rfl⟩ | ⟨-, -, hs, rfl⟩ | ⟨-, inp, v, -, ht⟩ | ⟨-, -, -, r, rest, i, -, hd, hx⟩ := step_cases h
  · exact nomatch ha
  · exact .inl ⟨List.mem_singleton.mp ha, hs, rfl⟩
  · exact .inr (tick_emits ht a ha)
  · rw [exec_port_trace hd hx] at ha
    exact nomatch ha

theorem step_of_notBooted (hn : NoBlockReset s) (hh : s.halted = false) (hb : s.booted = false) :
    step s = .next (boot s) := by
  have hgo : ∀ go, whenReady s go = .next (boot s) := fun go => by simp [whenReady, hh, hb]
  unfold step stepWith
  split
  · exact hgo _
  · exact hgo _
  · exact hgo _
  · exact absurd ‹_› (hn _ _)

/-- After every step but a block reset the block has booted. -/
theorem step_booted (hn : NoBlockReset s) (h : step s = .next t) : t.booted = true := by
  obtain ⟨timer, rest, hs, -⟩ | ⟨-, -, -, rfl⟩ | ⟨-, inp, v, hv, ht⟩ | ⟨-, -, hb, r, rest, i, -, -, hx⟩ := step_cases h
  · exact absurd hs (hn timer rest)
  · rfl
  · rw [tick_booted ht, hv.sameStatus.1, hv.2.1]
  · have hk := (sameRegs_kept _).exec hx (.refl _)
    exact hk.booted.trans hb

/-! ### The statements -/

/-- Settles O12, by what a step that emits `InitFtl` is. -/
theorem initFtlExactlyOnce : Obligations.InitFtlExactlyOnce := by
  refine ⟨fun s hn hh hb => step_of_notBooted hn hh hb, fun s t h ha => ?_, fun s t => step_booted⟩
  obtain ⟨-, hbooted⟩ | hi := step_emits h _ ha
  · exact hbooted
  · cases hi

/-- Settles O52, by following the status registers through a step. -/
theorem cstsRdyIsTheLastWritten : Obligations.CstsRdyIsTheLastWritten :=
  fun _ _ hn h => (step_statusAfter hn h).rdy

/-- Settles O53, by following the status registers through a step, and by the actions a tick may emit for the values. -/
theorem cstsShstIsTheLastWritten : Obligations.CstsShstIsTheLastWritten := by
  refine fun s t hn h => ⟨(step_statusAfter hn h).shst, fun w hw => ?_⟩
  obtain ⟨hi, -⟩ | hi := step_emits h _ hw
  · cases hi
  · exact shst_of_isTickAction hi

end Sys2Proof.Machine
end

section
/-! SUPPORT and PROOF of the decode function of an I/O command (30_encoding.md R107): the decoder, as an equation for each value of the opcode byte. -/

namespace Sys2Proof.Machine

/-! ### The opcode byte -/

/-- The opcode is `dw[0][7:0]` (30_encoding.md R107), read as a number. -/
theorem opcodeOf_eq_ofNat (d : Dwords) : opcodeOf d = BitVec.ofNat 8 (d.dw0.toNat % 256) := by
  apply BitVec.eq_of_toNat_eq
  simp [opcodeOf]

/-! ### The decoder at each opcode -/

section
variable {c : Command}

theorem decodeCommand_of_flush (hq : c.tag.qid ≠ 0) (h : opcodeOf c.dw = 0#8) :
    decodeCommand c = .ok (.flush c.tag (viewOf c.dw)) := by
  simp [decodeCommand, hq, h]

theorem decodeCommand_of_write (hq : c.tag.qid ≠ 0) (h : opcodeOf c.dw = 1#8) :
    decodeCommand c = .ok (.write c.tag (viewOf c.dw)) := by
  simp [decodeCommand, hq, h]

theorem decodeCommand_of_read (hq : c.tag.qid ≠ 0) (h : opcodeOf c.dw = 2#8) :
    decodeCommand c = .ok (.read c.tag (viewOf c.dw)) := by
  simp [decodeCommand, hq, h]

/-- An opcode from 3 on is none of the three, so the decoder falls through to the rejection. -/
theorem decodeCommand_of_unsupported (hq : c.tag.qid ≠ 0) (h : 3 ≤ (opcodeOf c.dw).toNat) :
    decodeCommand c = .error (opcodeOf c.dw) := by
  have hne : ∀ op : BitVec 8, op.toNat < 3 → opcodeOf c.dw ≠ op := by
    rintro _ hop rfl
    omega
  rw [decodeCommand, if_neg hq, if_neg (hne 0#8 (by decide)), if_neg (hne 1#8 (by decide)), if_neg (hne 2#8 (by decide))]

end

/-! ### The statement -/

/-- Settles O3, by the decoder's equation at each value of the opcode byte. -/
theorem decodeFollowsTheOpcode : Obligations.DecodeFollowsTheOpcode := by
  intro c hq
  have hop := opcodeOf_eq_ofNat c.dw
  refine ⟨fun h => ?flush, fun h => ?write, fun h => ?read, fun h => ?unsupported⟩
  case flush => exact decodeCommand_of_flush hq (by rw [hop, h])
  case write => exact decodeCommand_of_write hq (by rw [hop, h])
  case read => exact decodeCommand_of_read hq (by rw [hop, h])
  case unsupported =>
    rw [← hop]
    exact decodeCommand_of_unsupported hq (by rw [hop, BitVec.toNat_ofNat]; omega)

end Sys2Proof.Machine
end

section
/-! SUPPORT and PROOFS of the tracker's PUSH and of the independence of the two streams (40_barrier_tracker.md R130, R135).
A tracker operation on stream `j` is given as a function of the parameters and of stream `j` alone, and writes stream `j` alone;
so it commutes with replacing the other stream. -/

namespace Sys2Proof.Machine

/-! ### The append of a PUSH -/

section
variable {b : BarrierStream} {inv : Epoch}

theorem append_tail_val (e : Epoch) : (b.append inv e).tail.val = (b.tail.val + 1) % 256 := fin256_succ b.tail

/-- The append stores the epoch, whatever it is, at the tail, and leaves every other slot as it was. -/
theorem append_read (hw : b.buf.wf inv = true) (e : Epoch) (a : Nat) :
    (b.append inv e).buf.read inv a = if a = b.tail.val then e else b.buf.read inv a :=
  Memory.read_write hw b.tail a e

end

/-! ### PUSH at the port, at a return and in the encoding -/

/-- No command is a PUSH: the decoder of commands answers the four command rows only (30_encoding.md R107). -/
theorem decodeCommand_ne_push (c : Command) (w : Word) (e : Epoch) : decodeCommand c ≠ .ok (.push w e) := by
  unfold decodeCommand
  repeat' split
  all_goals exact fun h => nomatch h

/-- A return whose list is one PUSH performs that PUSH: the rest of the list is empty, whether it faults or not. -/
theorem pushAll_singleton (r : PushReq) (s : State) : pushAll [r] s = trkPush r.stream r.epoch s := by
  rw [pushAll_cons, andThen, pushAll_nil, ite_self]

theorem exec_push_of_running {s : State} (hs : s.halted = false) (w : Word) (e : Epoch) :
    exec (.push w e) s = .next (trkPush w e s) := by
  rw [exec_push, perform_of_running _ _ hs]

/-! ### Replacing a stream -/

section
variable {j k : StreamId}

theorem raiseFault_setTrk (c : FaultCode) (i : FaultInfo) (b : BarrierStream) (s : State) :
    raiseFault c i (setTrk k b s) = setTrk k b (raiseFault c i s) := by
  cases k <;> rfl

theorem answerPort_setTrk (r : PortResult) (b : BarrierStream) (s : State) :
    answerPort r (setTrk k b s) = setTrk k b (answerPort r s) := by
  cases k <;> rfl

/-- Writes to the two streams commute. -/
theorem setTrk_comm (h : j ≠ k) (a b : BarrierStream) (s : State) :
    setTrk j a (setTrk k b s) = setTrk k b (setTrk j a s) := by
  cases j <;> cases k
  case one.one => exact absurd rfl h
  case one.two => rfl
  case two.one => rfl
  case two.two => exact absurd rfl h

end

/-! ### Operations that neither write nor read a stream -/

/-- `f` leaves stream `k` as it was, and does the same whatever stream `k` holds. -/
def IgnoresStream (k : StreamId) (f : State → State) : Prop :=
  ∀ s b, trk (f s) k = trk s k ∧ f (setTrk k b s) = setTrk k b (f s)

section
variable {j k : StreamId} {f g : State → State}

theorem raiseFault_ignoresStream (k : StreamId) (c : FaultCode) (i : FaultInfo) : IgnoresStream k (raiseFault c i) :=
  fun s b => ⟨trk_raiseFault s c i k, raiseFault_setTrk c i b s⟩

theorem answerPort_ignoresStream (k : StreamId) (r : PortResult) : IgnoresStream k (answerPort r) :=
  fun s b => ⟨trk_answerPort s r k, answerPort_setTrk r b s⟩

theorem setTrk_ignoresStream (h : j ≠ k) (a : BarrierStream) : IgnoresStream k (setTrk j a) :=
  fun s b => ⟨trk_setTrk_other s h.symm a, setTrk_comm h a b s⟩

theorem IgnoresStream.comp (hg : IgnoresStream k g) (hf : IgnoresStream k f) : IgnoresStream k (g ∘ f) := by
  intro s b
  obtain ⟨hgk, hgb⟩ := hg (f s) b
  obtain ⟨hfk, hfb⟩ := hf s b
  exact ⟨hgk.trans hfk, (congrArg g hfb).trans hgb⟩

/-- An operation chosen by the parameters and by stream `j` ignores stream `k` when each choice does. -/
theorem IgnoresStream.chosenBy (h : j ≠ k) {op : Params → BarrierStream → State → State}
    (hop : ∀ p a, IgnoresStream k (op p a)) : IgnoresStream k fun s => op s.params (trk s j) s := by
  intro s b
  obtain ⟨hk, hb⟩ := hop s.params (trk s j) s b
  refine ⟨hk, ?_⟩
  beta_reduce
  rw [setTrk_params, trk_setTrk_other s h]
  exact hb

/-- A meaning that performs such an operation neither writes nor reads stream `k`. -/
theorem IgnoresStream.perform {s t : State} (hf : IgnoresStream k f) (h : perform s f = .next t) (b : BarrierStream) :
    trk t k = trk s k ∧ Machine.perform (setTrk k b s) f = .next (setTrk k b t) := by
  obtain ⟨hs, rfl⟩ := perform_eq_next.mp h
  obtain ⟨hk, hb⟩ := hf s b
  exact ⟨hk, perform_eq_next.mpr ⟨(setTrk_halted s k b).trans hs, hb⟩⟩

end

/-! ### The tracker operations as functions of one stream -/

/-- PUSH on stream `j`, which holds `b` (40_barrier_tracker.md R130). -/
def pushOn (j : StreamId) (e : Epoch) (p : Params) (b : BarrierStream) : State → State :=
  if capacityExceeded p.capCheck b.count then raiseFault .trkFull (.word (streamWord j))
  else setTrk j (b.append p.epochInvalid e)

/-- POP on stream `j`, which holds `b`, with the port's answer (40_barrier_tracker.md R132). -/
def popOn (j : StreamId) (p : Params) (b : BarrierStream) : State → State :=
  if b.count = 0 then raiseFault .trkEmpty (.word (streamWord j))
  else answerPort (.epoch (b.buf.read p.epochInvalid b.head)) ∘ setTrk j (b.dropHead p.epochInvalid)

/-- COUNT on a stream that holds `b`, with the port's answer (40_barrier_tracker.md R133). -/
def countOn (_ : Params) (b : BarrierStream) : State → State := answerPort (.count (BitVec.ofNat 9 b.count))

section
variable {j k : StreamId} {w : Word} {e : Epoch} {i : Instr}

theorem pushOn_ignoresStream (h : j ≠ k) (e : Epoch) (p : Params) (b : BarrierStream) :
    IgnoresStream k (pushOn j e p b) := by
  unfold pushOn
  split
  · exact raiseFault_ignoresStream k _ _
  · exact setTrk_ignoresStream h _

theorem popOn_ignoresStream (h : j ≠ k) (p : Params) (b : BarrierStream) : IgnoresStream k (popOn j p b) := by
  unfold popOn
  split
  · exact raiseFault_ignoresStream k _ _
  · exact (answerPort_ignoresStream k _).comp (setTrk_ignoresStream h _)

theorem countOn_ignoresStream (k : StreamId) (p : Params) (b : BarrierStream) : IgnoresStream k (countOn p b) :=
  answerPort_ignoresStream k _

theorem exec_push_streamWord (j : StreamId) (e : Epoch) (s : State) :
    exec (.push (streamWord j) e) s = perform s fun s => pushOn j e s.params (trk s j) s := by
  rw [exec_push]
  congr 1
  funext s
  cases hc : capacityExceeded s.params.capCheck (trk s j).count with
  | true => rw [trkPush_full hc, pushOn, if_pos hc]
  | false => rw [trkPush_append hc, pushOn, if_neg (by simp [hc])]

theorem exec_pop_streamWord (j : StreamId) (s : State) :
    exec (.pop (streamWord j)) s = perform s fun s => popOn j s.params (trk s j) s := by
  rw [exec_pop]
  congr 1
  funext s
  by_cases hc : (trk s j).count = 0
  · rw [trkPop_empty hc, popOn, if_pos hc]
  · rw [trkPop_head hc, popOn, if_neg hc]
    rfl

theorem exec_count_streamWord (j : StreamId) (s : State) :
    exec (.count (streamWord j)) s = perform s fun s => countOn s.params (trk s j) s := by
  cases j <;> rfl

/-- A tracker operation on an identifier other than 1 and 2 takes the fault and does nothing else. -/
theorem exec_of_badStream (hw : streamOf w = none) (hi : i = .push w e ∨ i = .pop w ∨ i = .count w) (s : State) :
    exec i s = perform s (raiseFault .trkBadStream (.word w)) := by
  obtain rfl | rfl | rfl := hi
  · rw [exec_push]
    exact congrArg (perform s) (funext fun s => trkPush_badStream hw e s)
  · simp only [exec_pop, trkPop_badStream hw]
  · simp only [exec_count, trkCount, hw]

/-- A tracker operation on another stream performs one operation that neither writes nor reads stream `k`. -/
theorem exec_ignoresStream (hwk : w ≠ streamWord k) (hi : i = .push w e ∨ i = .pop w ∨ i = .count w) :
    ∃ f, IgnoresStream k f ∧ ∀ s, exec i s = perform s f := by
  cases hw : streamOf w with
  | none => exact ⟨_, raiseFault_ignoresStream k _ _, exec_of_badStream hw hi⟩
  | some j =>
    obtain rfl := streamOf_eq_some hw
    have hjk : j ≠ k := fun h => hwk (congrArg streamWord h)
    obtain rfl | rfl | rfl := hi
    · exact ⟨_, .chosenBy hjk (pushOn_ignoresStream hjk e), exec_push_streamWord j e⟩
    · exact ⟨_, .chosenBy hjk (popOn_ignoresStream hjk), exec_pop_streamWord j⟩
    · exact ⟨_, .chosenBy hjk (countOn_ignoresStream k), exec_count_streamWord j⟩

end

/-! ### The statements -/

/-- Settles O16, by the three cases of PUSH: the bad stream, the full stream and the append. -/
theorem pushFollowsItsRule : Obligations.PushFollowsItsRule := by
  intro s w e hs
  rw [exec_push_of_running hs]
  refine ⟨rfl, fun c => decodeCommand_ne_push c w e, by rw [pushAll_singleton], fun h1 h2 => ?badStream, ?stream⟩
  case badStream => rw [trkPush_badStream (streamOf_eq_none.mpr ⟨h1, h2⟩), raiseFault]
  case stream =>
    rintro k rfl
    refine ⟨fun hfull => ?full, fun hroom hwf => ?append⟩
    case full => rw [trkPush_full hfull, raiseFault]
    case append =>
      rw [trkPush_append hroom]
      refine ⟨_, rfl, ?_⟩
      rw [trk_setTrk_same]
      exact ⟨rfl, rfl, append_tail_val e, rfl, append_read hwf e⟩

/-- Settles O22: the operation is one that ignores stream `k`. -/
theorem streamsAreIndependent : Obligations.StreamsAreIndependent := by
  intro k w e i hwk hi s t b hx
  obtain ⟨f, hf, hexec⟩ := exec_ignoresStream hwk hi
  rw [hexec] at hx ⊢
  exact hf.perform hx b

end Sys2Proof.Machine
end

section
/-! SUPPORT and PROOFS of the enable handshake and of SHUTDOWN (41_state_controller.md R153, R156). The lifecycle state is followed
through a tick: the forcing, the middle, which keeps it, and the arm of the state found; so what a tick does to it is read off
`forcedState` and `nextState`. -/

namespace Sys2Proof.Machine

variable {s t u v : State}

/-! ### The arms of StateStep -/

theorem stateStep_of_waitCcEn (h : s.ctlState = .waitCcEn) : stateStep s = waitCcEnArm s := by rw [stateStep, h]

theorem stateStep_of_shutdown (h : s.ctlState = .shutdown) : stateStep s = { s with ctlState := .waitReset } := by
  rw [stateStep, h, shutdownArm]

/-- The handshake, once the host has set enable (41_state_controller.md R153). -/
theorem waitCcEnArm_of_ccEn (h : s.inp.ccEn = true) : waitCcEnArm s = { s with
    adminQ := .armed 1 1, cstsRdy := true, flushTimerBase := s.inp.timerNow, ctlState := .running
    trace := s.trace ++ [.setAdminQueue 1 1, .writeCstsRdy true] } := by
  rw [waitCcEnArm, if_pos h]
  simp [writeCstsRdy, setAdminQueue, emit]

theorem waitCcEnArm_of_not_ccEn (h : s.inp.ccEn = false) : waitCcEnArm s = s := by
  simp [waitCcEnArm, h]

/-! ### The lifecycle state through a tick -/

/-- Counting a RESET visit is no transition. -/
theorem countResetVisit_ctlState (s : State) : (countResetVisit s).ctlState = s.ctlState := by
  unfold countResetVisit
  split <;> rfl

/-- `StateStep` moves the lifecycle state as the table of transitions says (41_state_controller.md R163). -/
theorem stateStep_ctlState (s : State) : (stateStep s).ctlState = nextState s.ctlState s.inp := by
  unfold stateStep nextState
  cases h : s.ctlState with
  | idle => exact h
  | shutdown => rfl
  | waitCcEn => simp only [waitCcEnArm, apply_ite State.ctlState, h]
  | running => simp only [runningArm, apply_ite State.ctlState, h, ne_eq, ite_not]
  | waitReset => simp only [waitResetArm, apply_ite State.ctlState, h]
  | reset => simp only [resetArm, apply_ite State.ctlState, countResetVisit_ctlState, resetVisit_ctlState, h]

/-- The table reads the sampled inputs only, and these the poll and the dispatch keep. -/
theorem SameRegs.nextState_eq (h : SameRegs s u) (c : CtlState) : nextState c u.inp = nextState c s.inp := by
  unfold nextState
  rw [h.ccEn, h.ccShn, h.resetForce]

/-- Clipping a tick's draws to their lines leaves the inputs the table reads. -/
theorem nextState_beginTick (c : CtlState) (inp : Inputs) (s : State) :
    nextState c (beginTick inp s).inp = nextState c inp := by
  rw [beginTick_inp]; rfl

theorem finishTick_ctlState_of_running (h : s.halted = false) : (finishTick s).ctlState = nextState s.ctlState s.inp := by
  rw [finishTick_of_running h, (background_sameRegs (by rw [stateStep_halted, h])).ctlState, stateStep_ctlState]

/-- A tick applies the forcing and then the table, unless a fault in the dispatch of RUNNING has ended it
(41_state_controller.md R163, 43_control_loop.md R212). -/
theorem tick_ctlState {inp : Inputs} (hv : v.halted = false) (h : tick exec inp v = .next t) :
    t.ctlState = nextState (forcedState v.ctlState inp) inp ∨
    (t.halted = true ∧ forcedState v.ctlState inp = .running ∧ t.ctlState = .running) := by
  obtain ⟨u, hm, rfl⟩ := tick_middle h
  have hu : u.ctlState = forcedState v.ctlState inp := by rw [hm.same.ctlState, beginTick_ctlState]
  cases hh : u.halted with
  | false => exact .inl (by rw [finishTick_ctlState_of_running hh, hu, hm.same.nextState_eq, nextState_beginTick])
  | true =>
    have hr := hm.running_of_halted (by rw [beginTick_halted, hv]) hh
    rw [beginTick_ctlState] at hr
    rw [finishTick_of_halted hh]
    exact .inr ⟨hh, hr, hu.trans hr⟩

/-! ### The lifecycle state through a step -/

/-- A tick begins unhalted, in the lifecycle state of the state the step is taken in. -/
theorem TickOn.ctlState_halted {inp : Inputs} (h : TickOn s inp v) : v.ctlState = s.ctlState ∧ v.halted = false := by
  obtain ⟨hh, -, ⟨_, -, rfl⟩ | ⟨-, -, rfl⟩⟩ := h <;> exact ⟨rfl, hh⟩

theorem TickOn.step_ctlState {inp : Inputs} (hv : TickOn s inp v) (h : step s = .next t) :
    t.ctlState = nextState (forcedState s.ctlState inp) inp ∨
    (t.halted = true ∧ forcedState s.ctlState inp = .running ∧ t.ctlState = .running) := by
  obtain ⟨hc, hh⟩ := hv.ctlState_halted
  rw [step_of_tickOn hv] at h
  rw [← hc]
  exact tick_ctlState hh h

/-- A step that is no tick leaves the lifecycle state alone, or is a block reset, which goes to IDLE. -/
theorem step_ctlState_of_not_tickOn (ht : ∀ inp v, ¬ TickOn s inp v) (h : step s = .next t) :
    (¬ NoBlockReset s ∧ t.ctlState = .idle) ∨ t.ctlState = s.ctlState := by
  obtain ⟨timer, rest, hs, rfl⟩ | ⟨-, -, -, rfl⟩ | ⟨-, inp, v, hv, -⟩ | ⟨-, -, -, r, rest, i, -, -, hx⟩ := step_cases h
  · exact .inl ⟨fun hn => hn timer rest hs, rfl⟩
  · exact .inr rfl
  · exact absurd hv (ht inp v)
  · exact .inr ((sameRegs_kept _).exec hx (.refl _)).ctlState

/-! ### Who goes to WAIT_CC_EN -/

/-- No arm enters WAIT_CC_EN: the arm that ends there began there. -/
theorem eq_waitCcEn_of_nextState {c : CtlState} {inp : Inputs} (h : nextState c inp = .waitCcEn) : c = .waitCcEn := by
  unfold nextState at h
  cases c with
  | waitCcEn => rfl
  | idle | shutdown => cases h
  | running | waitReset | reset => dsimp only at h; split at h <;> cases h

/-- The forcing enters WAIT_CC_EN from IDLE only (43_control_loop.md R212). -/
theorem idle_or_waitCcEn_of_forcedState {c : CtlState} {inp : Inputs} (h : forcedState c inp = .waitCcEn) :
    c = .idle ∨ c = .waitCcEn := by
  unfold forcedState at h
  split at h
  · cases h
  · split at h
    · exact .inl (And.right ‹_›)
    · exact .inr h

/-- A step ends in WAIT_CC_EN only from IDLE or from WAIT_CC_EN itself (41_state_controller.md R153). -/
theorem idle_or_waitCcEn_of_step (h : step s = .next t) (ht : t.ctlState = .waitCcEn) :
    s.ctlState = .idle ∨ s.ctlState = .waitCcEn := by
  by_cases hv : ∃ inp v, TickOn s inp v
  · obtain ⟨inp, v, hv⟩ := hv
    obtain htable | ⟨-, -, hrun⟩ := hv.step_ctlState h
    · exact idle_or_waitCcEn_of_forcedState (eq_waitCcEn_of_nextState (htable.symm.trans ht))
    · exact nomatch hrun.symm.trans ht
  · obtain ⟨-, hidle⟩ | hsame := step_ctlState_of_not_tickOn (fun inp v hv' => hv ⟨inp, v, hv'⟩) h
    · exact nomatch hidle.symm.trans ht
    · exact .inr (hsame.symm.trans ht)

/-! ### The statements -/

/-- Settles O41, by the arm of WAIT_CC_EN, and by following the lifecycle state through every kind of step. -/
theorem enableHandshake : Obligations.EnableHandshake := by
  refine ⟨fun s hs => ?_, fun s t => idle_or_waitCcEn_of_step⟩
  rw [stateStep_of_waitCcEn hs]
  exact ⟨waitCcEnArm_of_ccEn, waitCcEnArm_of_not_ccEn⟩

/-- Settles O43: in SHUTDOWN there is no forcing but that of RESET, and no dispatch that could end the tick. -/
theorem shutdownStepsOn : Obligations.ShutdownStepsOn := by
  refine ⟨fun s => stateStep_of_shutdown, fun s t v inp hv hs hrf h => ?_⟩
  have hforced : forcedState s.ctlState inp = .shutdown := by simp [forcedState, hs, hrf]
  have htick := hv.step_ctlState h
  rw [hforced] at htick
  obtain htable | ⟨-, hrun, -⟩ := htick
  · exact htable
  · cases hrun

end Sys2Proof.Machine
end

section
/-! SUPPORT and PROOFS of the LBA check and of the PRP checks of READ and WRITE (42_io_commands.md R183, R184). Each check is an
equation for each way it can end, and so is their sequence; a check that fails is the whole meaning of the instruction, and when
all pass the only faults left are those of the PUSHes at the submission's return. -/

namespace Sys2Proof.Machine

/-! ### The LBA check -/

section
variable {p : Params} {lo hi : Word}

theorem checkLba_low (h : ¬ lo < p.storageCapacityL) : checkLba p lo hi = some (.lbaLowRange, .word lo) := if_pos h

theorem checkLba_high (hlo : lo < p.storageCapacityL) (hhi : ¬ (hi = 0#32 ∨ hi < p.storageCapacityH)) :
    checkLba p lo hi = some (.lbaHighRange, .word hi) := by
  rw [checkLba, if_neg (not_not_intro hlo), if_pos hhi]

theorem checkLba_inRange {v : IoView} (h : LbaInRange p v) : checkLba p v.lbaLow v.lbaHigh = none := by
  obtain ⟨hlo, hhi⟩ := h
  rw [checkLba, if_neg (not_not_intro hlo), if_neg (not_not_intro hhi)]

end

/-! ### The check of one PRP -/

section
variable {p : Params} {k : PrpNo} {lo hi : Word} {n : Nat}

theorem aligned_iff : aligned lo n = true ↔ lo.toNat % n = 0 := beq_iff_eq

theorem checkPrp_misaligned (h : lo.toNat % n ≠ 0) : checkPrp p k lo hi n = some (.prpMisaligned, .prp k lo) :=
  if_pos (mt aligned_iff.mp h)

theorem checkPrp_high (hlo : lo.toNat % n = 0) (hhi : ¬ hi < p.prpHiCeil) :
    checkPrp p k lo hi n = some (.prpHighRange, .prp k hi) := by
  rw [checkPrp, if_neg (not_not_intro (aligned_iff.mpr hlo)), if_pos hhi]

theorem checkPrp_inRange (h : PrpInRange p lo hi n) : checkPrp p k lo hi n = none := by
  obtain ⟨hlo, hhi⟩ := h
  rw [checkPrp, if_neg (not_not_intro (aligned_iff.mpr hlo)), if_neg (not_not_intro hhi)]

/-- The value 0 is aligned to any number of bytes. -/
theorem prpInRange_zero (h : 0#32 < p.prpHiCeil) : PrpInRange p 0#32 0#32 n := ⟨Nat.zero_mod n, h⟩

end

/-! ### The checks in their order -/

section
variable {p : Params} {v : IoView} {n : Nat} {t : Trap}

/-- The LBA check comes first, whatever the PRPs hold (42_io_commands.md R185). -/
theorem checkIo_of_lba (h : checkLba p v.lbaLow v.lbaHigh = some t) : checkIo p v n = some t := by
  rw [checkIo, h]

/-- PRP1 is checked before PRP2 (42_io_commands.md R185). -/
theorem checkIo_of_prp1 (hl : LbaInRange p v) (h : checkPrp p .prp1 v.prp1Lo v.prp1Hi n = some t) :
    checkIo p v n = some t := by
  rw [checkIo, checkLba_inRange hl, h]

/-- PRP2 decides once the LBA and PRP1 have passed. -/
theorem checkIo_eq_prp2 (hl : LbaInRange p v) (h1 : PrpInRange p v.prp1Lo v.prp1Hi n) :
    checkIo p v n = checkPrp p .prp2 v.prp2Lo v.prp2Hi n := by
  rw [checkIo, checkLba_inRange hl, checkPrp_inRange h1]

theorem checkIo_inRange (hl : LbaInRange p v) (h1 : PrpInRange p v.prp1Lo v.prp1Hi n)
    (h2 : PrpInRange p v.prp2Lo v.prp2Hi n) : checkIo p v n = none := by
  rw [checkIo_eq_prp2 hl h1, checkPrp_inRange h2]

end

/-! ### The faults of a submission -/

/-- The fault code is still `c`, or it is one that a PUSH can take (40_barrier_tracker.md R130). -/
def CodeKeptOrOfPush (c : FaultCode) (t : State) : Prop :=
  t.faultCode = c ∨ t.faultCode = .trkBadStream ∨ t.faultCode = .trkFull

/-- Any other code the block shows is the one it showed before. -/
theorem CodeKeptOrOfPush.eq_of_ne {c : FaultCode} {t : State} (h : CodeKeptOrOfPush c t)
    (hb : t.faultCode ≠ .trkBadStream) (hf : t.faultCode ≠ .trkFull) : t.faultCode = c :=
  h.resolve_right (not_or.mpr ⟨hb, hf⟩)

theorem CodeKeptOrOfPush.trkPush {c : FaultCode} {s : State} (w : Word) (e : Epoch) (h : CodeKeptOrOfPush c s) :
    CodeKeptOrOfPush c (trkPush w e s) := by
  obtain ⟨-, ht⟩ | ⟨-, -, -, ht⟩ | ⟨k, -, -, ht⟩ := trkPush_cases w e s <;> rw [ht]
  · exact .inr (.inl rfl)
  · exact .inr (.inr rfl)
  · rwa [CodeKeptOrOfPush, setTrk_faultCode]

/-- A storage-pipeline call takes no fault but through the PUSHes at its return. -/
theorem callPipeline_codeKeptOrOfPush (a : Action) {s : State} (hs : s.halted = false) :
    CodeKeptOrOfPush s.faultCode (callPipeline a s) :=
  callPipeline_keeps _ a s hs (.inl rfl) (fun _ => .inl rfl) fun w e _ _ h => h.trkPush w e

/-! ### READ and WRITE -/

section
variable {s t : State} {tag : CmdTag} {v : IoView} {i : Instr} {n : Nat}

/-- READ and WRITE are one shape: the checks at the instruction's alignment, then one storage-pipeline call. -/
theorem exec_readWrite (hs : s.halted = false) (hi : i = .read tag v ∧ n = 4 ∨ i = .write tag v ∧ n = 16) :
    ∃ a, exec i s = .next (checked (checkIo s.params v n) s (callPipeline a)) := by
  obtain ⟨rfl, rfl⟩ | ⟨rfl, rfl⟩ := hi
  · rw [exec_read, perform_of_running _ _ hs]
    exact ⟨_, rfl⟩
  · rw [exec_write, perform_of_running _ _ hs]
    exact ⟨_, rfl⟩

/-- A check that fails halts the block with its fault, and nothing else changes (42_io_commands.md R185). -/
theorem exec_readWrite_of_trap {code : FaultCode} {info : FaultInfo} (hs : s.halted = false)
    (hi : i = .read tag v ∧ n = 4 ∨ i = .write tag v ∧ n = 16) (h : checkIo s.params v n = some (code, info)) :
    exec i s = .next { s with halted := true, faultCode := code, faultInfo := info } := by
  obtain ⟨a, ha⟩ := exec_readWrite hs hi
  rw [ha, h, checked, raiseFault]

/-- A READ or WRITE that passes its checks ends with the fault code it began with, or with one of a PUSH. -/
theorem exec_readWrite_of_pass (hs : s.halted = false)
    (hi : i = .read tag v ∧ n = 4 ∨ i = .write tag v ∧ n = 16) (h : checkIo s.params v n = none)
    (hx : exec i s = .next t) : CodeKeptOrOfPush s.faultCode t := by
  obtain ⟨a, ha⟩ := exec_readWrite hs hi
  rw [ha, h, checked] at hx
  cases hx
  exact callPipeline_codeKeptOrOfPush a hs

end

/-! ### The statements -/

/-- Settles O26: the LBA check comes first, and past it the checks pass, so the submission's PUSHes alone can fault. -/
theorem lbaOutOfRangeHalts : Obligations.LbaOutOfRangeHalts := by
  intro s tag v i n hs hi h1 h2
  refine ⟨fun hlo => ?low, fun hlo hhi => ?high, fun hlo hhi t hx ht => ?inRange⟩
  case low => exact exec_readWrite_of_trap hs hi (checkIo_of_lba (checkLba_low hlo))
  case high => exact exec_readWrite_of_trap hs hi (checkIo_of_lba (checkLba_high hlo hhi))
  case inRange =>
    have hcode := exec_readWrite_of_pass hs hi (checkIo_inRange ⟨hlo, hhi⟩ h1 h2) hx
    obtain ht | ht := ht <;> exact hcode.eq_of_ne (by simp [ht]) (by simp [ht])

/-- Settles O27: with the LBA in range the PRP at fault is the first check that fails, and when both pass the submission's PUSHes
alone can fault. -/
theorem prpViolationHalts : Obligations.PrpViolationHalts := by
  intro s tag v i n hs hi hl
  refine ⟨fun _ hlo => ?misaligned1, fun _ hlo hhi => ?high1, fun h1 hlo => ?misaligned2, fun h1 hlo hhi => ?high2,
    fun h1 h2 t hx ht => ?inRange, prpInRange_zero⟩
  case misaligned1 => exact exec_readWrite_of_trap hs hi (checkIo_of_prp1 hl (checkPrp_misaligned hlo))
  case high1 => exact exec_readWrite_of_trap hs hi (checkIo_of_prp1 hl (checkPrp_high hlo hhi))
  case misaligned2 => exact exec_readWrite_of_trap hs hi ((checkIo_eq_prp2 hl h1).trans (checkPrp_misaligned hlo))
  case high2 => exact exec_readWrite_of_trap hs hi ((checkIo_eq_prp2 hl h1).trans (checkPrp_high hlo hhi))
  case inRange =>
    have hcode := exec_readWrite_of_pass hs hi (checkIo_inRange hl h1 h2) hx
    obtain ht | ht := ht <;> exact hcode.eq_of_ne (by simp [ht]) (by simp [ht])

end Sys2Proof.Machine
end

section
/-! SUPPORT and PROOFS of the encoding (30_encoding.md): the decoder of commands said once as the four cases in which it answers an
instruction, and that encoding and decoding undo each other. -/

namespace Sys2Proof.Machine

/-! ### The decoder of commands -/

section
variable {c : Command} {i : Instr}

theorem decodeCommand_of_admin (hq : c.tag.qid = 0) : decodeCommand c = .ok (.admin c.tag c.dw) := if_pos hq

/-- Everything the decoder of commands answers: ADMIN on queue 0, and on an I/O queue the row of the opcode (30_encoding.md R104,
R107). -/
theorem decodeCommand_cases (h : decodeCommand c = .ok i) :
    (c.tag.qid = 0 ∧ i = .admin c.tag c.dw) ∨
    (c.tag.qid ≠ 0 ∧ opcodeOf c.dw = 0#8 ∧ i = .flush c.tag (viewOf c.dw)) ∨
    (c.tag.qid ≠ 0 ∧ opcodeOf c.dw = 1#8 ∧ i = .write c.tag (viewOf c.dw)) ∨
    (c.tag.qid ≠ 0 ∧ opcodeOf c.dw = 2#8 ∧ i = .read c.tag (viewOf c.dw)) := by
  unfold decodeCommand at h
  split at h
  · cases h; exact .inl ⟨‹_›, rfl⟩
  split at h
  · cases h; exact .inr (.inl ⟨‹_›, ‹_›, rfl⟩)
  split at h
  · cases h; exact .inr (.inr (.inl ⟨‹_›, ‹_›, rfl⟩))
  split at h
  · cases h; exact .inr (.inr (.inr ⟨‹_›, ‹_›, rfl⟩))
  · cases h

theorem decode_command_of_ok (h : decodeCommand c = .ok i) : decode (.command c) = .ok i := by simp only [decode, h]

theorem decode_port_of_some {r : PortReq} (h : decodePort r = some i) : decode (.port r) = .ok i := by
  simp only [decode, h]

/-- A command whose opcode is `op` is the encoding of `op` and its view. -/
theorem dwordsOf_viewOf_of_opcode {op : BitVec 8} (h : opcodeOf c.dw = op) : dwordsOf op (viewOf c.dw) = c.dw := by
  rw [← h, dwordsOf_viewOf]

end

/-! ### The statements -/

/-- Settles O1: each row is decoded by the condition its encoding meets. -/
theorem decodeAfterEncode : Obligations.DecodeAfterEncode := by
  intro p i hwf
  cases i with
  | flush tag v =>
    obtain ⟨hq, hop⟩ := Laws.OpcodeTable.flush tag v p hwf
    exact decode_command_of_ok (by rw [decodeCommand_of_flush hq hop, viewOf_dwordsOf])
  | write tag v =>
    obtain ⟨hq, hop⟩ := Laws.OpcodeTable.write tag v p hwf
    exact decode_command_of_ok (by rw [decodeCommand_of_write hq hop, viewOf_dwordsOf])
  | read tag v =>
    obtain ⟨hq, hop⟩ := Laws.OpcodeTable.read tag v p hwf
    exact decode_command_of_ok (by rw [decodeCommand_of_read hq hop, viewOf_dwordsOf])
  | admin tag dw => exact decode_command_of_ok (decodeCommand_of_admin (Laws.OpcodeTable.admin tag dw p hwf))
  | push w e => exact decode_port_of_some rfl
  | pop w => exact decode_port_of_some rfl
  | count w => exact decode_port_of_some rfl

/-- Settles O2, by the four cases in which the decoder answers an instruction. -/
theorem encodeAfterDecode : Obligations.EncodeAfterDecode := by
  intro c i h
  obtain ⟨hq, rfl⟩ | ⟨hq, hop, rfl⟩ | ⟨hq, hop, rfl⟩ | ⟨hq, hop, rfl⟩ := decodeCommand_cases h
  case inl => exact ⟨rfl, fun p hfit => by simp [Instr.wf, hfit, hq]⟩
  all_goals exact ⟨by rw [encode, dwordsOf_viewOf_of_opcode hop], fun p hfit => by simp [Instr.wf, hfit, hq]⟩

/-- Settles O4: each word meets the condition of its row, and the fields read from it are closed values. -/
theorem specWordsDecode : Obligations.SpecWordsDecode :=
  ⟨⟨_, decodeCommand_of_read (by decide) (by decide), by decide, by decide, by decide, by decide, by decide⟩,
    ⟨_, decodeCommand_of_write (by decide) (by decide), by decide, by decide, by decide⟩,
    ⟨_, decodeCommand_of_flush (by decide) (by decide)⟩, decodeCommand_of_admin rfl, rfl, rfl, rfl⟩

end Sys2Proof.Machine
end

section
/-! SUPPORT and PROOFS of the arms of the state controller and of the lifecycle table (41_state_controller.md R151 to R163): one
equation for each way an arm can end, and the reset escalation as an induction over the ticks. -/

namespace Sys2Proof.Machine

variable {s t v : State}

/-! ### The arms of StateStep -/

/-- The clears of R158, the eight queue pairs by their numbers. -/
theorem clearActions_eq : clearActions = (List.finRange 8).map .clearIoQueuePair ++ [.clearAdminQueue] := rfl

theorem stateStep_of_idle (h : s.ctlState = .idle) : stateStep s = s := by rw [stateStep, h, idleArm]

theorem stateStep_of_running (h : s.ctlState = .running) : stateStep s = runningArm s := by rw [stateStep, h]

theorem stateStep_of_waitReset (h : s.ctlState = .waitReset) : stateStep s = waitResetArm s := by rw [stateStep, h]

theorem stateStep_of_reset (h : s.ctlState = .reset) : stateStep s = resetArm s := by rw [stateStep, h]

/-- The teardown of a shutdown, on a notification (41_state_controller.md R154, R155). -/
theorem runningArm_of_ccShn (h : s.inp.ccShn ≠ 0#2) : runningArm s = { s with
    ioqValid := Vector.replicate 8 false, adminQ := .cleared, cacheEn := false, cstsShst := 2#2, ctlState := .shutdown
    trace := s.trace ++ (List.finRange 8).map .clearIoQueuePair ++
      [.clearAdminQueue, .writeCstsShst 1#2, .writeCstsShst 2#2, .persistGrownBadBlockTable s.params.bbtBufBase] } := by
  rw [runningArm, if_pos h, shutdownTeardown, teardownQueues_eq, clearActions_eq]
  simp [writeCstsShst, disableWriteCache, emit]

theorem runningArm_of_no_ccShn (h : s.inp.ccShn = 0#2) : runningArm s = s := if_neg (not_not_intro h)

/-- The host has cleared enable (41_state_controller.md R157). -/
theorem waitResetArm_of_not_ccEn (h : s.inp.ccEn = false) : waitResetArm s = { s with
    cstsShst := 0#2, cstsRdy := false, cacheEn := false, ctlState := .idle
    trace := s.trace ++ [.writeCstsShst 0#2, .writeCstsRdy false] } := by
  rw [waitResetArm, if_neg (by simp [h])]
  simp [writeCstsShst, writeCstsRdy, disableWriteCache, emit]

theorem waitResetArm_of_ccEn (h : s.inp.ccEn = true) : waitResetArm s = s := if_pos h

/-- What every RESET visit clears (41_state_controller.md R160). -/
theorem resetVisit_eq (s : State) : resetVisit s = { s with
    ioqValid := Vector.replicate 8 false, adminQ := .cleared, cacheEn := false, cstsShst := 0#2, cstsRdy := false
    trace := s.trace ++ (List.finRange 8).map .clearIoQueuePair ++
      [.clearAdminQueue, .writeCstsShst 0#2, .writeCstsRdy false] } := by
  rw [resetVisit, teardownQueues_eq, clearActions_eq]
  simp [writeCstsShst, writeCstsRdy, disableWriteCache, emit]

/-- A visit that leaves RESET. -/
theorem resetArm_of_not_force (h : s.inp.resetForce = false) :
    resetArm s = { resetVisit s with rstCnt := 0, ctlState := .idle } := if_neg (by simp [h])

/-- A visit that stays and is counted. -/
theorem resetArm_of_count (h : s.inp.resetForce = true) (hc : s.rstCnt ≠ 4) :
    resetArm s = { resetVisit s with rstCnt := s.rstCnt + 1 } := by
  rw [resetArm, if_pos h, countResetVisit, resetVisit_rstCnt, if_neg (by simp only [Config.resetEscalate]; omega)]

/-- The fifth visit that stays asks for a link reset. -/
theorem resetArm_of_escalate (h : s.inp.resetForce = true) (hc : s.rstCnt = 4) :
    resetArm s = { resetVisit s with rstCnt := 0, trace := (resetVisit s).trace ++ [.linkResetAsync] } := by
  rw [resetArm, if_pos h, countResetVisit, resetVisit_rstCnt, if_pos (by rw [hc]), emit]

/-! ### A tick under the forcing of RESET -/

/-- A step that is no block reset is taken on a block that is not halted. -/
theorem running_of_step (hn : NoBlockReset s) (h : step s = .next t) : s.halted = false := by
  obtain ⟨timer, rest, hs, -⟩ | ⟨-, hh, -⟩ | ⟨-, inp, v, hv, -⟩ | ⟨-, hh, -⟩ := step_cases h
  · exact absurd hs (hn timer rest)
  · exact hh
  · exact hv.1
  · exact hh

/-- A tick that does not find the block in RUNNING after the forcing does steps 3 and 4 only. -/
theorem tick_of_not_running {inp : Inputs} (hr : (beginTick inp v).ctlState ≠ .running) :
    tick exec inp v = .next (finishTick (beginTick inp v)) := by
  rw [tick, pollAndDispatch, if_neg hr, onNext_next]

/-- Background scheduling is no part of the escalation. -/
theorem background_count_linkReset (s : State) :
    (background s).trace.count .linkResetAsync = s.trace.count .linkResetAsync := by
  obtain h | ⟨-, h | h⟩ := background_trace s <;> rw [h]
  all_goals rw [List.count_append]; rfl

theorem background_rstCnt (hs : s.halted = false) : (background s).rstCnt = s.rstCnt :=
  ((sameQueue_kept s.hostq s.rstCnt).background hs ⟨rfl, rfl⟩).2

/-- A visit of RESET under the forcing counts modulo 5, and asks for a link reset when it wraps (41_state_controller.md R160,
R161). -/
theorem resetArm_counts (h : s.inp.resetForce = true) (hc : s.rstCnt < 5) :
    (resetArm s).rstCnt = (s.rstCnt + 1) % 5 ∧
    (resetArm s).trace.count .linkResetAsync = s.trace.count .linkResetAsync + (s.rstCnt + 1) / 5 := by
  have hclear : List.count Action.linkResetAsync (clearActions ++ [.writeCstsShst 0#2, .writeCstsRdy false]) = 0 := by
    decide
  by_cases h4 : s.rstCnt = 4
  · rw [resetArm_of_escalate h h4, h4, resetVisit_trace, List.append_assoc s.trace, List.append_assoc s.trace,
      List.count_append, List.count_append, hclear]
    exact ⟨rfl, rfl⟩
  · rw [resetArm_of_count h h4, resetVisit_trace, List.append_assoc, List.count_append, hclear]
    have hlt : s.rstCnt + 1 < 5 := by omega
    rw [Nat.div_eq_of_lt hlt, Nat.mod_eq_of_lt hlt]
    exact ⟨rfl, rfl⟩

/-- One tick of the escalation: with `reset_force` set it finds the block in RESET, so it dispatches nothing. -/
theorem tick_under_resetForce {inp : Inputs} (hf : inp.resetForce = true) (hv : v.halted = false) (hc : v.rstCnt < 5)
    (h : tick exec inp v = .next t) :
    t.script = v.script ∧ t.booted = v.booted ∧ t.rstCnt = (v.rstCnt + 1) % 5 ∧
      t.trace.count .linkResetAsync = (v.rstCnt + 1) / 5 := by
  have hreset : (beginTick inp v).ctlState = .reset := by rw [beginTick_ctlState, forcedState, if_pos hf]
  have hforce : (beginTick inp v).inp.resetForce = true := by rw [beginTick_inp]; exact hf
  have hb : (beginTick inp v).halted = false := by rw [beginTick_halted, hv]
  have hrunning : (stateStep (beginTick inp v)).halted = false := by rw [stateStep_halted, hb]
  rw [tick_of_not_running (by rw [hreset]; decide), finishTick_of_running hb] at h
  cases h
  have hregs := background_sameRegs hrunning
  obtain ⟨hcnt, htrace⟩ := resetArm_counts hforce (by rw [beginTick_rstCnt]; exact hc)
  refine ⟨?_, ?_, ?_, ?_⟩
  · rw [hregs.script, stateStep_script, beginTick_script]
  · rw [hregs.booted, stateStep_booted, beginTick_booted]
  · rw [background_rstCnt hrunning, stateStep_of_reset hreset, hcnt, beginTick_rstCnt]
  · rw [background_count_linkReset, stateStep_of_reset hreset, htrace, beginTick_trace, beginTick_rstCnt, List.count_nil,
      Nat.zero_add]

/-- One step of the escalation. -/
theorem step_under_resetForce {inp : Inputs} {rest : List Event} (hs : s.script = .tick inp :: rest)
    (hf : inp.resetForce = true) (hb : s.booted = true) (hc : s.rstCnt < 5) (h : step s = .next t) :
    t.script = rest ∧ t.booted = true ∧ t.rstCnt = (s.rstCnt + 1) % 5 ∧
      t.trace.count .linkResetAsync = (s.rstCnt + 1) / 5 := by
  have hh := running_of_step (fun _ _ hn => by rw [hs] at hn; cases hn) h
  rw [step_of_tickOn ⟨hh, hb, .inl ⟨rest, hs, rfl⟩⟩] at h
  obtain ⟨hscript, hbooted, hcount⟩ := tick_under_resetForce (v := { s with script := rest }) hf hh hc h
  exact ⟨hscript, hbooted.trans hb, hcount⟩

/-- The escalation from any counter value: after `n` forced ticks the counter has advanced by `n` modulo 5, with one link reset
for each wrap. -/
theorem resetEscalation_from {n : Nat} :
    ∀ {s : State}, (∀ j, j < n → ∃ inp : Inputs, s.script[j]? = some (.tick inp) ∧ inp.resetForce = true) →
      s.booted = true → s.rstCnt < 5 → runState n s = some t →
        (runTrace n s).count .linkResetAsync = (s.rstCnt + n) / 5 ∧ t.rstCnt = (s.rstCnt + n) % 5 := by
  induction n with
  | zero =>
    intro s _ _ hc hrun
    cases hrun
    exact ⟨(Nat.div_eq_of_lt hc).symm, (Nat.mod_eq_of_lt hc).symm⟩
  | succ n ih =>
    intro s hscript hb hc hrun
    obtain ⟨inp, hinp, hf⟩ := hscript 0 (Nat.succ_pos n)
    obtain ⟨rest, hs⟩ : ∃ rest, s.script = .tick inp :: rest := by
      cases hl : s.script with
      | nil => rw [hl] at hinp; cases hinp
      | cons e rest => rw [hl] at hinp; cases hinp; exact ⟨rest, rfl⟩
    rw [runState] at hrun
    rw [runTrace]
    cases hstep : step s with
    | fault r => rw [hstep] at hrun; cases hrun
    | refused r => rw [hstep] at hrun; cases hrun
    | next u =>
      rw [hstep] at hrun
      obtain ⟨hu, hub, hucnt, hutrace⟩ := step_under_resetForce hs hf hb hc hstep
      have hrest : ∀ j, j < n → ∃ inp : Inputs, u.script[j]? = some (.tick inp) ∧ inp.resetForce = true := by
        intro j hj
        obtain ⟨inp', hj', hf'⟩ := hscript (j + 1) (by omega)
        exact ⟨inp', by rw [hu]; simpa [hs] using hj', hf'⟩
      obtain ⟨htrace, hcnt⟩ := ih hrest hub (by omega) hrun
      dsimp only
      rw [List.count_append, hutrace, htrace, hcnt, hucnt]
      omega

/-! ### The statements -/

/-- Settles O42, by the arm of RUNNING. -/
theorem shutdownNotification : Obligations.ShutdownNotification := by
  intro s hs
  rw [stateStep_of_running hs]
  exact ⟨runningArm_of_ccShn, runningArm_of_no_ccShn⟩

/-- Settles O44, by the arms of IDLE and WAIT_RESET. -/
theorem waitResetAndIdle : Obligations.WaitResetAndIdle := by
  refine fun s => ⟨stateStep_of_idle, fun hs => ?_⟩
  rw [stateStep_of_waitReset hs]
  exact ⟨waitResetArm_of_not_ccEn, waitResetArm_of_ccEn⟩

/-- Settles O45, by what a visit clears and the three ways it ends. -/
theorem resetVisits : Obligations.ResetVisits := by
  rintro s v hs rfl
  rw [stateStep_of_reset hs, ← resetVisit_eq]
  exact ⟨resetArm_of_not_force, resetArm_of_count, resetArm_of_escalate⟩

/-- Settles O46, by following the lifecycle state through a tick and through every other step. -/
theorem lifecycleTable : Obligations.LifecycleTable := by
  refine ⟨fun s t v inp hv h => hv.step_ctlState h, fun s t hn ht h => ?_⟩
  obtain ⟨hreset, -⟩ | hsame := step_ctlState_of_not_tickOn ht h
  · exact absurd hn hreset
  · exact hsame

/-- Settles O47: the escalation from a zero counter. -/
theorem resetEscalation : Obligations.ResetEscalation := by
  intro n s t hscript hb hc hrun
  simpa [hc] using resetEscalation_from hscript hb (by omega) hrun

end Sys2Proof.Machine
end

section
/-! SUPPORT and PROOFS of the invariants and the reset states: the induction over the kinds of steps packaged once for what every
part of a step keeps; the host queue and the widths; and the status registers, which agree with the lifecycle state at the ends
of a tick only, followed through its middle. -/

namespace Sys2Proof.Machine

variable {s t u v : State}

/-! ### What every part of a step keeps -/

/-- A property that each small operation keeps, and with it each part of a step. -/
structure KeptByStep (P : State → Prop) : Prop extends KeptByOps P where
  env : ∀ s script drawNo trace, P s → P { s with script := script, drawNo := drawNo, trace := trace }
  beginTick : ∀ inp s, P s → P (beginTick inp s)
  fetchCommand : ∀ s, P s → P (fetchCommand s)
  stateStep : ∀ s, s.halted = false → P s → P (stateStep s)
  boot : ∀ s, P s → P (boot s)
  blockReset : ∀ timer s, P s → P (blockReset timer s)

/-- What each part keeps, a step keeps. -/
theorem KeptByStep.step {P : State → Prop} (hP : KeptByStep P) (hs : P s) (h : step s = .next t) : P t := by
  obtain ⟨timer, rest, -, rfl⟩ | ⟨-, -, -, rfl⟩ | ⟨-, inp, v, hv, ht⟩ | ⟨-, -, -, r, rest, i, -, -, hx⟩ := step_cases h
  · exact hP.blockReset timer _ (hP.env s rest s.drawNo s.trace hs)
  · exact hP.boot s hs
  · have hPv : P v := by
      obtain ⟨-, -, ⟨rest, -, rfl⟩ | ⟨-, -, rfl⟩⟩ := hv
      · exact hP.env s rest s.drawNo s.trace hs
      · exact hP.env s s.script (s.drawNo + 1) s.trace hs
    exact hP.toKeptByOps.tick (hP.beginTick inp v hPv) hP.fetchCommand hP.stateStep ht
  · exact hP.toKeptByOps.exec hx (hP.env s rest s.drawNo [] hs)

/-! ### The tracker -/

/-- The tracker invariant reads the parameters and the two streams only. -/
theorem TrackerInv.congr (h : TrackerInv s) (hp : t.params = s.params) (h1 : t.trk1 = s.trk1) (h2 : t.trk2 = s.trk2) :
    TrackerInv t := by
  intro k
  have hk := h k
  cases k <;> simpa only [trk, hp, h1, h2] using hk

/-- Writing a stream that is as it should be keeps the invariant. -/
theorem TrackerInv.setTrk (h : TrackerInv s) (k : StreamId) {b : BarrierStream} (hb : StreamOk s.params b) :
    TrackerInv (setTrk k b s) := by
  intro j
  rw [setTrk_params]
  by_cases hj : j = k
  · rw [hj, trk_setTrk_same]; exact hb
  · rw [trk_setTrk_other s hj]; exact h j

theorem trackerInv_resetOf (p : Params) (timer : Nat) : TrackerInv (State.resetOf p timer) :=
  fun k => by cases k <;> exact StreamOk.empty p

theorem trackerInv_keptByStep : KeptByStep TrackerInv where
  emit _ _ h := h.congr rfl rfl rfl
  setPushes _ _ h := h.congr rfl rfl rfl
  raiseFault _ _ _ _ h := h.congr rfl rfl rfl
  append _ k e hc h := h.setTrk k ((h k).append hc e)
  dropHead _ k hc h := h.setTrk k ((h k).dropHead hc)
  handler _ _ _ h := h.congr rfl rfl rfl
  port _ _ h := h.congr rfl rfl rfl
  skipBackground _ h := h.congr rfl rfl rfl
  release _ h := h.congr rfl rfl rfl
  env _ _ _ _ h := h.congr rfl rfl rfl
  beginTick _ _ h := h.congr (beginTick_params _ _) (beginTick_trk1 _ _) (beginTick_trk2 _ _)
  fetchCommand _ h := h.congr (fetchCommand_params _) (fetchCommand_trk1 _) (fetchCommand_trk2 _)
  stateStep _ _ h := h.congr (stateStep_params _) (stateStep_trk1 _) (stateStep_trk2 _)
  boot _ h := h.congr rfl rfl rfl
  blockReset timer s _ := (trackerInv_resetOf s.params (timer % 2 ^ s.params.timerW)).congr rfl rfl rfl

/-! ### The fault registers -/

theorem FaultInv.congr (h : FaultInv s) (hh : t.halted = s.halted) (hc : t.faultCode = s.faultCode)
    (hi : t.faultInfo = s.faultInfo) : FaultInv t := by
  unfold FaultInv
  rw [hh, hc, hi]
  exact h

theorem faultInv_resetOf (p : Params) (timer : Nat) : FaultInv (State.resetOf p timer) :=
  ⟨⟨fun h => (nomatch h), fun h => absurd rfl h⟩, fun _ => rfl⟩

theorem faultInv_keptByStep : KeptByStep FaultInv where
  emit _ _ h := h.congr rfl rfl rfl
  setPushes _ _ h := h.congr rfl rfl rfl
  raiseFault _ _ _ hc _ := ⟨⟨fun _ => hc, fun _ => rfl⟩, fun h => nomatch h⟩
  append _ _ _ _ h := h.congr (by simp) (by simp) (by simp)
  dropHead _ _ _ h := h.congr (by simp) (by simp) (by simp)
  handler _ _ _ h := h.congr rfl rfl rfl
  port _ _ h := h.congr rfl rfl rfl
  skipBackground _ h := h.congr rfl rfl rfl
  release _ h := h.congr rfl rfl rfl
  env _ _ _ _ h := h.congr rfl rfl rfl
  beginTick _ _ h := h.congr (beginTick_halted _ _) (beginTick_faultCode _ _) (beginTick_faultInfo _ _)
  fetchCommand _ h := h.congr (fetchCommand_halted _) (fetchCommand_faultCode _) (fetchCommand_faultInfo _)
  stateStep _ _ h := h.congr (stateStep_halted _) (stateStep_faultCode _) (stateStep_faultInfo _)
  boot _ h := h.congr rfl rfl rfl
  blockReset timer s _ := (faultInv_resetOf s.params (timer % 2 ^ s.params.timerW)).congr rfl rfl rfl

/-! ### The parameters -/

theorem params_keptByStep (p : Params) : KeptByStep (fun s => s.params = p) where
  emit _ _ h := h
  setPushes _ _ h := h
  raiseFault _ _ _ _ h := h
  append _ k _ _ h := (setTrk_params _ k _).trans h
  dropHead _ k _ h := (setTrk_params _ k _).trans h
  handler _ _ _ h := h
  port _ _ h := h
  skipBackground _ h := h
  release _ h := h
  env _ _ _ _ h := h
  beginTick _ _ h := (beginTick_params _ _).trans h
  fetchCommand _ h := (fetchCommand_params _).trans h
  stateStep _ _ h := (stateStep_params _).trans h
  boot _ h := h
  blockReset _ _ h := h

/-! ### The host queue -/

/-- A poll takes the command it returns out of the host queue (10_state.md R55). -/
theorem fetchCommand_hostq (s : State) : (fetchCommand s).hostq = afterFetch s.hostq s.inp.fetch := by
  cases hf : s.inp.fetch with
  | none => rw [fetchCommand_none (by rw [polled, hf])]; rfl
  | some k =>
    cases hk : s.hostq[k]? with
    | none =>
      rw [fetchCommand_none (by simp only [polled, hf, hk]), emit_hostq]
      exact (List.eraseIdx_of_length_le (List.getElem?_eq_none_iff.mp hk)).symm
    | some c => rw [fetchCommand_some (by simp only [polled, hf, hk]; rfl)]; rfl

theorem hostq_kept (q : List Command) : KeptByOps (fun u => u.hostq = q) where
  emit _ _ h := h
  setPushes _ _ h := h
  raiseFault _ _ _ _ h := h
  append _ k _ _ h := (setTrk_hostq _ k _).trans h
  dropHead _ k _ h := (setTrk_hostq _ k _).trans h
  handler _ _ _ h := h
  port _ _ h := h
  skipBackground _ h := h
  release _ h := h

theorem finishTick_hostq (s : State) : (finishTick s).hostq = s.hostq :=
  (hostq_kept s.hostq).finishTick (fun _ h => (stateStep_hostq s).trans h) rfl

/-- A tick appends the arrivals, and its poll, if it makes one, takes out what it returns. -/
theorem tick_hostq {inp : Inputs} (h : tick exec inp v = .next t) :
    t.hostq = afterFetch (v.hostq ++ inp.arrivals.map (clipCommand v.params))
      (if forcedState v.ctlState inp = .running then inp.fetch else none) := by
  have hfetch : (fetchCommand (beginTick inp v)).hostq =
      afterFetch (v.hostq ++ inp.arrivals.map (clipCommand v.params)) inp.fetch := by
    rw [fetchCommand_hostq, beginTick_hostq, beginTick_inp]; rfl
  have hq := hostq_kept (fetchCommand (beginTick inp v)).hostq
  rw [← beginTick_ctlState]
  obtain ⟨hr, rfl⟩ | ⟨hr, -, rfl⟩ | ⟨c, q, op, hr, -, -, rfl⟩ | ⟨c, q, i, u, hr, -, -, hx, rfl⟩ := tick_cases h <;>
    rw [finishTick_hostq]
  · rw [if_neg hr, beginTick_hostq]; rfl
  · rw [if_pos hr, hfetch]
  · rw [if_pos hr, ← hfetch]; rfl
  · rw [if_pos hr, ← hfetch]
    have hu := hq.exec hx rfl
    exact hq.release _ (andThen_keeps (P := fun u => u.hostq = _) hu fun hs => hq.afterDispatch c hs hu)

/-- What a tick begins with of the state the step is taken in. -/
theorem TickOn.sameState {inp : Inputs} (h : TickOn s inp v) :
    v = { s with script := v.script, drawNo := v.drawNo } := by
  obtain ⟨-, -, ⟨_, -, rfl⟩ | ⟨-, -, rfl⟩⟩ := h <;> rfl

theorem TickOn.hostq {inp : Inputs} (h : TickOn s inp v) : v.hostq = s.hostq := (congrArg State.hostq h.sameState).trans rfl
theorem TickOn.params {inp : Inputs} (h : TickOn s inp v) : v.params = s.params := (congrArg State.params h.sameState).trans rfl
theorem TickOn.ctlState {inp : Inputs} (h : TickOn s inp v) : v.ctlState = s.ctlState := h.ctlState_halted.1
theorem TickOn.flushTimerBase {inp : Inputs} (h : TickOn s inp v) : v.flushTimerBase = s.flushTimerBase :=
  (congrArg State.flushTimerBase h.sameState).trans rfl

theorem TickOn.step_hostq {inp : Inputs} (hv : TickOn s inp v) (h : step s = .next t) :
    t.hostq = afterFetch (s.hostq ++ inp.arrivals.map (clipCommand s.params))
      (if forcedState s.ctlState inp = .running then inp.fetch else none) := by
  rw [step_of_tickOn hv] at h
  rw [tick_hostq h, hv.hostq, hv.params, hv.ctlState]

theorem step_hostq_of_not_tickOn (ht : ∀ inp v, ¬ TickOn s inp v) (h : step s = .next t) : t.hostq = s.hostq := by
  obtain ⟨timer, rest, -, rfl⟩ | ⟨-, -, -, rfl⟩ | ⟨-, inp, v, hv, -⟩ | ⟨-, -, -, r, rest, i, -, -, hx⟩ := step_cases h
  · rfl
  · rfl
  · exact absurd hv (ht inp v)
  · exact (hostq_kept s.hostq).exec hx rfl

/-! ### The widths of the metadata and of the timer -/

/-- A fetch adds no command to the queue. -/
theorem mem_of_mem_afterFetch {q : List Command} {k : Option Nat} {c : Command} (h : c ∈ afterFetch q k) : c ∈ q := by
  cases k with
  | none => exact h
  | some k => exact List.mem_of_mem_eraseIdx h

/-- A command on the lines of the widths fits them. -/
theorem clipTag_fits (p : Params) (tag : CmdTag) : (clipTag p tag).fits p = true := by
  simp [CmdTag.fits, clipTag, Nat.mod_lt]

theorem step_hostq_fits (hq : ∀ c ∈ s.hostq, c.tag.fits s.params = true) (h : step s = .next t) :
    ∀ c ∈ t.hostq, c.tag.fits s.params = true := by
  intro c hc
  by_cases hv : ∃ inp v, TickOn s inp v
  · obtain ⟨inp, v, hv⟩ := hv
    rw [hv.step_hostq h] at hc
    obtain hold | harrived := List.mem_append.mp (mem_of_mem_afterFetch hc)
    · exact hq c hold
    · obtain ⟨a, -, rfl⟩ := List.mem_map.mp harrived
      exact clipTag_fits s.params a.tag
  · rw [step_hostq_of_not_tickOn (fun inp v hv' => hv ⟨inp, v, hv'⟩) h] at hc
    exact hq c hc

/-- The state controller writes the timer baseline in the enable handshake only, with the sampled timer. -/
theorem stateStep_flushTimerBase (s : State) :
    (stateStep s).flushTimerBase = s.flushTimerBase ∨ (stateStep s).flushTimerBase = s.inp.timerNow := by
  cases hc : s.ctlState with
  | idle => exact .inl (by rw [stateStep_of_idle hc])
  | waitCcEn =>
    rw [stateStep_of_waitCcEn hc]
    cases he : s.inp.ccEn with
    | true => exact .inr (by rw [waitCcEnArm_of_ccEn he])
    | false => exact .inl (by rw [waitCcEnArm_of_not_ccEn he])
  | running => rw [stateStep_of_running hc, runningArm]; split <;> exact .inl (by simp)
  | shutdown => exact .inl (by rw [stateStep_of_shutdown hc])
  | waitReset => rw [stateStep_of_waitReset hc, waitResetArm]; split <;> exact .inl (by simp)
  | reset =>
    rw [stateStep_of_reset hc, resetArm, countResetVisit]
    split
    · split <;> exact .inl (by simp)
    · exact .inl (by simp)

theorem tick_timer_lt {inp : Inputs} (ht : v.flushTimerBase < 2 ^ v.params.timerW) (h : tick exec inp v = .next t) :
    t.flushTimerBase < 2 ^ v.params.timerW := by
  obtain ⟨u, hu, -, hend⟩ := tick_around_stateStep h
  have hbase : u.flushTimerBase = v.flushTimerBase := by rw [hu.flushTimerBase, beginTick_flushTimerBase]
  have hnow : u.inp.timerNow = inp.timerNow % 2 ^ v.params.timerW := by rw [hu.timerNow, beginTick_inp]; rfl
  obtain rfl | ⟨-, -, hregs, -⟩ := hend
  · rwa [hbase]
  · rw [hregs.flushTimerBase]
    obtain hs | hs := stateStep_flushTimerBase u <;> rw [hs]
    · rwa [hbase]
    · rw [hnow]; exact Nat.mod_lt _ (Nat.two_pow_pos _)

theorem step_timer_lt (ht : s.flushTimerBase < 2 ^ s.params.timerW) (h : step s = .next t) :
    t.flushTimerBase < 2 ^ s.params.timerW := by
  obtain ⟨timer, rest, -, rfl⟩ | ⟨-, -, -, rfl⟩ | ⟨-, inp, v, hv, hx⟩ | ⟨-, -, -, r, rest, i, -, -, hx⟩ := step_cases h
  · exact Nat.mod_lt _ (Nat.two_pow_pos _)
  · exact ht
  · rw [← hv.params]
    exact tick_timer_lt (by rwa [hv.params, hv.flushTimerBase]) hx
  · rw [((sameRegs_kept _).exec hx (.refl _)).flushTimerBase]; exact ht

/-! ### The command latch -/

theorem cmdNone_kept : KeptByOps (fun u => u.cmd = none) where
  emit _ _ h := h
  setPushes _ _ h := h
  raiseFault _ _ _ _ h := h
  append _ k _ _ h := (setTrk_cmd _ k _).trans h
  dropHead _ k _ h := (setTrk_cmd _ k _).trans h
  handler _ _ _ h := h
  port _ _ h := h
  skipBackground _ h := h
  release _ _ := rfl

theorem finishTick_cmd_none (h : s.cmd = none) : (finishTick s).cmd = none :=
  cmdNone_kept.finishTick (fun _ h => (stateStep_cmd s).trans h) h

/-- A tick begins with the latch empty and releases it after its dispatch (10_state.md R46). -/
theorem tick_cmd_none {inp : Inputs} (h : tick exec inp v = .next t) : t.cmd = none := by
  obtain ⟨-, rfl⟩ | ⟨-, hp, rfl⟩ | ⟨c, q, op, -, -, -, rfl⟩ | ⟨c, q, i, u, -, -, -, -, rfl⟩ := tick_cases h
  · exact finishTick_cmd_none (beginTick_cmd inp v)
  · exact finishTick_cmd_none (by rw [fetchCommand_none hp, emit_cmd, beginTick_cmd])
  · exact finishTick_cmd_none rfl
  · exact finishTick_cmd_none rfl

theorem step_cmd_none (hc : s.cmd = none) (h : step s = .next t) : t.cmd = none := by
  obtain ⟨timer, rest, -, rfl⟩ | ⟨-, -, -, rfl⟩ | ⟨-, inp, v, -, hx⟩ | ⟨-, -, -, r, rest, i, -, -, hx⟩ := step_cases h
  · rfl
  · exact hc
  · exact tick_cmd_none hx
  · exact cmdNone_kept.exec hx hc

theorem step_params (h : step s = .next t) : t.params = s.params := (params_keptByStep s.params).step rfl h

/-! ### The status registers -/

theorem statusInv_resetOf (p : Params) (timer : Nat) : StatusInv (State.resetOf p timer) :=
  ⟨rfl, rfl, rfl, Nat.succ_pos 4, fun _ => rfl⟩

/-- The invariant reads neither the environment nor the trace. -/
theorem StatusInv.env (h : StatusInv s) (inp : Inputs) (script : List Event) (drawNo : Nat) (trace : List Action)
    (booted : Bool) :
    StatusInv { s with inp := inp, script := script, drawNo := drawNo, trace := trace, booted := booted } :=
  ⟨h.rdy, h.shst, h.adminQ, h.rstCnt_lt, h.rstCnt_zero⟩

/-- The invariant reads the registers, the lifecycle state and `rst_cnt` only, and a zeroed `rst_cnt` meets it. -/
theorem StatusInv.of_sameRegs (h : StatusInv s) (hu : SameRegs s u) (hcnt : u.rstCnt = s.rstCnt ∨ u.rstCnt = 0) :
    StatusInv u where
  rdy := by rw [hu.cstsRdy, hu.ctlState, h.rdy]
  shst := by rw [hu.cstsShst, hu.ctlState, h.shst]
  adminQ := by rw [hu.adminQ, hu.ctlState, h.adminQ]
  rstCnt_lt := by
    obtain hc | hc := hcnt <;> rw [hc]
    · exact h.rstCnt_lt
    · decide
  rstCnt_zero hr := by
    obtain hc | hc := hcnt
    · rw [hc]; exact h.rstCnt_zero (by rwa [← hu.ctlState])
    · exact hc

/-- What the state controller needs to find: the invariant, or a block that the forcing has just put into RESET, whose registers
the visit clears whatever they hold. -/
def ReadyForStateStep (s : State) : Prop := StatusInv s ∨ (s.ctlState = .reset ∧ s.rstCnt < Config.resetEscalate)

theorem ReadyForStateStep.of_sameRegs (h : ReadyForStateStep s) (hu : SameRegs s u)
    (hcnt : u.rstCnt = s.rstCnt ∨ u.rstCnt = 0) : ReadyForStateStep u := by
  obtain h | ⟨hc, hlt⟩ := h
  · exact .inl (h.of_sameRegs hu hcnt)
  · refine .inr ⟨hu.ctlState.trans hc, ?_⟩
    obtain he | he := hcnt <;> rw [he]
    · exact hlt
    · decide

/-- The forcing leaves the state controller what it needs (43_control_loop.md R212). -/
theorem StatusInv.beginTick (h : StatusInv s) (inp : Inputs) : ReadyForStateStep (beginTick inp s) := by
  have hf := beginTick_ctlState inp s
  obtain ⟨hrdy, hshst, hadmin, hlt, hzero⟩ := h
  unfold forcedState at hf
  split at hf
  · exact .inr ⟨hf, by rwa [beginTick_rstCnt]⟩
  refine .inl ?_
  split at hf
  · rename_i hidle
    obtain ⟨-, hidle⟩ := hidle
    rw [hidle] at hrdy hshst hadmin
    exact ⟨by rw [beginTick_cstsRdy, hf, hrdy]; rfl, by rw [beginTick_cstsShst, hf, hshst]; rfl,
      by rw [beginTick_adminQ, hf, hadmin]; rfl, by rwa [beginTick_rstCnt],
      fun _ => by rw [beginTick_rstCnt]; exact hzero (by rw [hidle]; decide)⟩
  · exact ⟨by rw [beginTick_cstsRdy, hf, hrdy], by rw [beginTick_cstsShst, hf, hshst],
      by rw [beginTick_adminQ, hf, hadmin], by rwa [beginTick_rstCnt],
      fun hr => by rw [beginTick_rstCnt]; exact hzero (by rwa [← hf])⟩

/-- A RESET visit leaves the registers cleared and the counter below the escalation. -/
theorem resetArm_statusInv (hc : s.ctlState = .reset) (hlt : s.rstCnt < Config.resetEscalate) : StatusInv (resetArm s) := by
  cases hf : s.inp.resetForce with
  | false =>
    rw [resetArm_of_not_force hf, resetVisit_eq]
    exact ⟨rfl, rfl, rfl, Nat.succ_pos 4, fun _ => rfl⟩
  | true =>
    by_cases h4 : s.rstCnt = 4
    · rw [resetArm_of_escalate hf h4, resetVisit_eq]
      exact ⟨by rw [hc]; rfl, by rw [hc]; rfl, by rw [hc]; rfl, Nat.succ_pos 4, fun _ => rfl⟩
    · have hlt5 : s.rstCnt + 1 < Config.resetEscalate := Nat.lt_of_le_of_ne hlt fun he => h4 (Nat.succ_injective he)
      rw [resetArm_of_count hf h4, resetVisit_eq]
      exact ⟨by rw [hc]; rfl, by rw [hc]; rfl, by rw [hc]; rfl, hlt5, fun hr => absurd hc hr⟩

/-- Every arm of the state controller ends with the registers in agreement with the state it goes to. -/
theorem ReadyForStateStep.stateStep (h : ReadyForStateStep s) : StatusInv (stateStep s) := by
  by_cases hr : s.ctlState = .reset
  · rw [stateStep_of_reset hr]
    exact resetArm_statusInv hr (h.elim StatusInv.rstCnt_lt And.right)
  obtain h | ⟨hc, -⟩ := h
  swap
  · exact absurd hc hr
  have hzero := h.rstCnt_zero hr
  have hlt := h.rstCnt_lt
  cases hc : s.ctlState with
  | reset => exact absurd hc hr
  | idle => rwa [stateStep_of_idle hc]
  | waitCcEn =>
    rw [stateStep_of_waitCcEn hc]
    cases he : s.inp.ccEn with
    | false => rwa [waitCcEnArm_of_not_ccEn he]
    | true =>
      have hshst := h.shst
      rw [waitCcEnArm_of_ccEn he]
      exact ⟨rfl, by rw [hshst, hc]; rfl, rfl, hlt, fun _ => hzero⟩
  | running =>
    rw [stateStep_of_running hc]
    by_cases hn : s.inp.ccShn = 0#2
    · rwa [runningArm_of_no_ccShn hn]
    · have hrdy := h.rdy
      rw [runningArm_of_ccShn hn]
      exact ⟨by rw [hrdy, hc]; rfl, rfl, rfl, hlt, fun _ => hzero⟩
  | shutdown =>
    obtain ⟨hrdy, hshst, hadmin, -, -⟩ := h
    rw [stateStep_of_shutdown hc]
    exact ⟨by rw [hrdy, hc]; rfl, by rw [hshst, hc]; rfl, by rw [hadmin, hc]; rfl, hlt, fun _ => hzero⟩
  | waitReset =>
    rw [stateStep_of_waitReset hc]
    cases he : s.inp.ccEn with
    | true => rwa [waitResetArm_of_ccEn he]
    | false =>
      have hadmin := h.adminQ
      rw [waitResetArm_of_not_ccEn he]
      exact ⟨rfl, rfl, by rw [hadmin, hc]; rfl, hlt, fun _ => hzero⟩

/-- A tick: what the dispatch leaves is ready for the state controller, and a fault ends the tick only in RUNNING, where the
invariant already holds. -/
theorem tick_statusInv {inp : Inputs} (hv : v.halted = false) (h : StatusInv v) (ht : tick exec inp v = .next t) :
    StatusInv t := by
  obtain ⟨u, hm, rfl⟩ := tick_middle ht
  have hready := (h.beginTick inp).of_sameRegs hm.same (hm.rstCnt.imp_right And.left)
  cases hh : u.halted with
  | true =>
    have hrun := hm.same.ctlState.trans (hm.running_of_halted (by rw [beginTick_halted, hv]) hh)
    rw [finishTick_of_halted hh]
    exact hready.resolve_right fun hr => by rw [hrun] at hr; cases hr.1
  | false =>
    have hs : (stateStep u).halted = false := by rw [stateStep_halted, hh]
    rw [finishTick_of_running hh]
    exact hready.stateStep.of_sameRegs (background_sameRegs hs) (.inl (background_rstCnt hs))

/-! ### The statements -/

/-- Settles O24: the induction over a step, from what each operation does to a stream. -/
theorem stepKeepsTheTrackerInvariant : Obligations.StepKeepsTheTrackerInvariant :=
  fun _ _ hs h => trackerInv_keptByStep.step hs h

/-- Settles O48, by following the registers through the forcing, the middle of a tick and the arm of the state found. -/
theorem stepKeepsTheStatusInvariant : Obligations.StepKeepsTheStatusInvariant := by
  intro s t hs h
  obtain ⟨timer, rest, -, rfl⟩ | ⟨-, -, -, rfl⟩ | ⟨-, inp, v, hv, ht⟩ | ⟨-, -, -, r, rest, i, -, -, hx⟩ := step_cases h
  case inl =>
    obtain ⟨hrdy, hshst, hadmin, hlt, hzero⟩ := statusInv_resetOf s.params (timer % 2 ^ s.params.timerW)
    exact ⟨hrdy, hshst, hadmin, hlt, hzero⟩
  case inr.inl => exact hs.env s.inp s.script s.drawNo [.initFtl] true
  case inr.inr.inl =>
    refine tick_statusInv hv.ctlState_halted.2 ?_ ht
    rw [hv.sameState]
    exact hs.env s.inp v.script v.drawNo s.trace s.booted
  case inr.inr.inr =>
    have hq := (sameQueue_kept s.hostq s.rstCnt).exec hx ⟨rfl, rfl⟩
    exact (hs.env s.inp rest s.drawNo [] s.booted).of_sameRegs ((sameRegs_kept _).exec hx (.refl _)) (.inl hq.2)

/-- Settles O49: taking a fault is the only operation that writes the fault registers, and it writes them together. -/
theorem stepKeepsTheFaultInvariant : Obligations.StepKeepsTheFaultInvariant :=
  fun _ _ hs h => faultInv_keptByStep.step hs h

/-- Settles O50, each part followed through a step. -/
theorem stepKeepsTheWidths : Obligations.StepKeepsTheWidths := by
  intro s t hs h
  have hp := step_params h
  exact ⟨step_cmd_none hs.cmd_none h, by rw [hp]; exact step_hostq_fits hs.hostq_fits h,
    by rw [hp]; exact step_timer_lt hs.timer_lt h⟩

/-- Settles O51: no operation writes the parameters. -/
theorem parametersNeverChange : Obligations.ParametersNeverChange :=
  fun s _ => ⟨step_params, fun _ hx => (params_keptByStep s.params).toKeptByOps.exec hx rfl⟩

/-- Settles O55: the arrivals and the poll are the only operations of a step that write the host queue. -/
theorem queuedCommandsWait : Obligations.QueuedCommandsWait :=
  ⟨fun _ _ _ _ hv h => hv.step_hostq h, fun _ _ => step_hostq_of_not_tickOn⟩

/-- Settles O15: each value is read off the reset state. -/
theorem resetValues : Obligations.ResetValues := by
  refine ⟨fun p timer => ⟨rfl, rfl, rfl, rfl, rfl, fun q => ?ioq, rfl, fun k => ?streams, rfl, rfl, rfl, rfl⟩, _, _, rfl⟩
  case ioq => simp [State.resetOf]
  case streams => cases k <;> exact ⟨rfl, rfl, rfl, fun _ => rfl⟩

/-- Settles O25: the reset states meet each invariant, and State.reset is one whose timer value fits. -/
theorem resetMeetsTheInvariants : Obligations.ResetMeetsTheInvariants := by
  have hwidth : ∀ (p : Params) (timer : Nat), timer < 2 ^ p.timerW → WidthInv (State.resetOf p timer) :=
    fun p timer ht => ⟨rfl, fun _ hc => (nomatch hc), ht⟩
  refine ⟨fun p timer => ⟨trackerInv_resetOf p timer, statusInv_resetOf p timer, faultInv_resetOf p timer, hwidth p timer⟩, ?_⟩
  exact ⟨trackerInv_resetOf _ _, statusInv_resetOf _ _, faultInv_resetOf _ _, hwidth _ _ (by decide)⟩

end Sys2Proof.Machine
end

section
/-! SUPPORT and PROOFS of the tick and the step as equations (43_control_loop.md R210 to R213): how a tick begins and ends, what it is
for each thing its poll can find, and the steps that are no tick. -/

namespace Sys2Proof.Machine

variable {s t u v b : State} {inp : Inputs} {c : Command} {q : List Command} {i : Instr}

/-! ### The beginning of a tick -/

theorem force_eq (s : State) : force s = { s with ctlState := forcedState s.ctlState s.inp } := by
  unfold force forcedState
  split
  · rfl
  · simp only [Bool.and_eq_true, beq_iff_eq]
    split <;> rfl

theorem beginTick_eq (inp : Inputs) (s : State) : beginTick inp s = { s with
    ctlState := forcedState s.ctlState inp, runBg := true, inp := clipInputs s.params inp
    hostq := s.hostq ++ inp.arrivals.map (clipCommand s.params), trace := [], cmd := none } := by
  rw [beginTick, force_eq]
  rfl

/-- The forcing does not enter RUNNING. -/
theorem running_of_forcedState {k : CtlState} (h : forcedState k inp = .running) : k = .running := by
  unfold forcedState at h
  split at h
  · cases h
  · split at h
    · cases h
    · exact h

/-- What the poll of a tick leaves, but for the command latch. -/
theorem fetchCommand_beginTick_released (hp : polled (beginTick inp v) = some (c, q)) :
    { fetchCommand (beginTick inp v) with cmd := none } =
      { beginTick inp v with hostq := q, rstCnt := 0, trace := [.fetchCommand] } := by
  rw [fetchCommand_some hp, beginTick_eq]
  rfl

/-! ### The dispatch -/

/-- A tick whose poll finds a command dispatches it. -/
theorem tick_of_polled (hr : (beginTick inp v).ctlState = .running) (hp : polled (beginTick inp v) = some (c, q)) :
    tick exec inp v =
      match decodeCommand c with
      | .error op => .next (finishTick (releaseCommand
          (raiseFault .badOpcode (.word (op.setWidth 32)) (fetchCommand (beginTick inp v)))))
      | .ok i => onNext (exec i (fetchCommand (beginTick inp v))) fun u =>
          .next (finishTick (releaseCommand (andThen u (afterDispatch c)))) := by
  have hc : (fetchCommand (beginTick inp v)).cmd = some c := by rw [fetchCommand_some hp]
  rw [tick, pollAndDispatch, if_pos hr, dispatch, hc]
  dsimp only
  cases decodeCommand c with
  | error op => rfl
  | ok i => dsimp only; cases exec i (fetchCommand (beginTick inp v)) <;> rfl

theorem tick_of_dispatch (hr : (beginTick inp v).ctlState = .running) (hp : polled (beginTick inp v) = some (c, q))
    (hd : decodeCommand c = .ok i) :
    tick exec inp v = onNext (exec i (fetchCommand (beginTick inp v))) fun u =>
      .next (finishTick (releaseCommand (andThen u (afterDispatch c)))) := by
  rw [tick_of_polled hr hp, hd]

/-- A fault of the instruction ends the tick. -/
theorem tick_of_fault (hr : (beginTick inp v).ctlState = .running) (hp : polled (beginTick inp v) = some (c, q))
    (hd : decodeCommand c = .ok i) (hx : exec i (fetchCommand (beginTick inp v)) = .next u) (hu : u.halted = true) :
    tick exec inp v = .next { u with cmd := none } := by
  rw [tick_of_dispatch hr hp hd, hx, onNext_next, andThen_of_halted _ _ hu,
    finishTick_of_halted (s := releaseCommand u) hu, releaseCommand]

/-- An opcode in a wider word is the number it is. -/
theorem setWidth_ofNat_opcode (n : Nat) : (BitVec.ofNat 8 (n % 256)).setWidth 32 = BitVec.ofNat 32 (n % 256) := by
  apply BitVec.eq_of_toNat_eq
  simp only [BitVec.toNat_setWidth, BitVec.toNat_ofNat]
  omega

/-- An unsupported opcode takes its fault, and nothing is dispatched (42_io_commands.md R189). -/
theorem tick_of_unsupported (hr : (beginTick inp v).ctlState = .running) (hp : polled (beginTick inp v) = some (c, q))
    (hq : c.tag.qid ≠ 0) (hop : 3 ≤ c.dw.dw0.toNat % 256) :
    tick exec inp v = .next { beginTick inp v with
      hostq := q, rstCnt := 0, trace := [.fetchCommand], halted := true, faultCode := .badOpcode,
      faultInfo := .word (BitVec.ofNat 32 (c.dw.dw0.toNat % 256)) } := by
  have hd : decodeCommand c = .error (BitVec.ofNat 8 (c.dw.dw0.toNat % 256)) := by
    obtain ⟨-, -, -, hunsupported⟩ := decodeFollowsTheOpcode c hq
    exact hunsupported hop
  rw [tick_of_polled hr hp, hd]
  dsimp only
  rw [finishTick_of_halted rfl, setWidth_ofNat_opcode, fetchCommand_some hp, beginTick_eq]
  rfl

/-- What follows a dispatch, the instruction's fault and the fault of a PUSH at the hand-over included. -/
theorem andThen_afterDispatch_eq (c : Command) (u : State) :
    andThen u (afterDispatch c) =
      if u.halted = true ∨ c.tag.qid = 0 then u
      else if (callPipeline .flushSubmissionQueueToLowLevel u).halted = true then
        callPipeline .flushSubmissionQueueToLowLevel u
      else { callPipeline .flushSubmissionQueueToLowLevel u with runBg := false } := by
  cases hu : u.halted with
  | true => rw [andThen_of_halted _ _ hu, if_pos (.inl rfl)]
  | false =>
    rw [andThen_of_running _ _ hu]
    by_cases hq : c.tag.qid = 0
    · rw [afterDispatch_admin hq, if_pos (.inr hq)]
    · rw [afterDispatch_io hq, if_neg (by simp [hq]), andThen]
      rfl

/-! ### Steps that are no tick -/

theorem exec_of_halted (hs : s.halted = true) (i : Instr) : exec i s = .fault (.halted s.faultCode s.faultInfo) := by
  cases i with
  | flush tag view => rw [exec_flush, attempt_of_halted _ _ hs]
  | write tag view => rw [exec_write, perform_of_halted _ _ hs]
  | read tag view => rw [exec_read, perform_of_halted _ _ hs]
  | admin tag dw => rw [exec_admin, perform_of_halted _ _ hs]
  | push w e => rw [exec_push, perform_of_halted _ _ hs]
  | pop w => rw [exec_pop, perform_of_halted _ _ hs]
  | count w => rw [exec_count, perform_of_halted _ _ hs]

theorem step_of_halted (hs : s.halted = true) (hn : NoBlockReset s) :
    step s = .fault (.halted s.faultCode s.faultInfo) := by
  have hgo : ∀ go, whenReady s go = .fault (.halted s.faultCode s.faultInfo) := fun go => if_pos hs
  unfold step stepWith
  split
  · exact hgo _
  · exact hgo _
  · exact hgo _
  · exact absurd ‹_› (hn _ _)

theorem step_of_port {r : PortReq} {rest : List Event} (hs : s.script = .port r :: rest) (hh : s.halted = false)
    (hb : s.booted = true) : step s = portStep exec r { s with script := rest } := by
  simp only [step, stepWith, hs, whenReady_of_ready hh hb]

/-- The tracker port decodes every `trk_op` but 3 (30_encoding.md R108). -/
theorem decodePort_some {r : PortReq} (h : r.op ≠ 3#2) : ∃ i, decodePort r = some i := by
  have hop : ∀ op : BitVec 2, op ≠ 3#2 → op = 0#2 ∨ op = 1#2 ∨ op = 2#2 := by decide
  unfold decodePort
  obtain h | h | h := hop r.op h <;> rw [h] <;> exact ⟨_, rfl⟩

theorem decodePort_none {r : PortReq} (h : r.op = 3#2) : decodePort r = none := by
  rw [decodePort, h]
  rfl

/-! ### A malformed READ or WRITE -/

/-- The codes of the operand checks (42_io_commands.md R183, R184). -/
def IsCheckCode (code : FaultCode) : Prop :=
  code = .lbaLowRange ∨ code = .lbaHighRange ∨ code = .prpMisaligned ∨ code = .prpHighRange

theorem checkLba_of_not_inRange {p : Params} {view : IoView} (h : ¬ LbaInRange p view) :
    ∃ code info, checkLba p view.lbaLow view.lbaHigh = some (code, info) ∧ IsCheckCode code := by
  by_cases hlo : view.lbaLow < p.storageCapacityL
  · exact ⟨_, _, checkLba_high hlo fun hhi => h ⟨hlo, hhi⟩, .inr (.inl rfl)⟩
  · exact ⟨_, _, checkLba_low hlo, .inl rfl⟩

theorem checkPrp_of_not_inRange {p : Params} {k : PrpNo} {lo hi : Word} {n : Nat} (h : ¬ PrpInRange p lo hi n) :
    ∃ code info, checkPrp p k lo hi n = some (code, info) ∧ IsCheckCode code := by
  by_cases hlo : lo.toNat % n = 0
  · exact ⟨_, _, checkPrp_high hlo fun hhi => h ⟨hlo, hhi⟩, .inr (.inr (.inr rfl))⟩
  · exact ⟨_, _, checkPrp_misaligned hlo, .inr (.inr (.inl rfl))⟩

/-- Operands out of range fail a check. -/
theorem checkIo_of_not_inRange {p : Params} {view : IoView} {n : Nat}
    (h : ¬ (LbaInRange p view ∧ PrpInRange p view.prp1Lo view.prp1Hi n ∧ PrpInRange p view.prp2Lo view.prp2Hi n)) :
    ∃ code info, checkIo p view n = some (code, info) ∧ IsCheckCode code := by
  by_cases hl : LbaInRange p view
  · by_cases h1 : PrpInRange p view.prp1Lo view.prp1Hi n
    · rw [checkIo_eq_prp2 hl h1]
      exact checkPrp_of_not_inRange fun h2 => h ⟨hl, h1, h2⟩
    · obtain ⟨code, info, hc, hcode⟩ := checkPrp_of_not_inRange (k := .prp1) h1
      exact ⟨code, info, checkIo_of_prp1 hl hc, hcode⟩
  · obtain ⟨code, info, hc, hcode⟩ := checkLba_of_not_inRange hl
    exact ⟨code, info, checkIo_of_lba hc, hcode⟩

/-- A failing check takes its fault, and nothing is submitted (60_exceptions.md R232). -/
theorem tick_of_trap {view : IoView} {n : Nat} {code : FaultCode} {info : FaultInfo}
    (hr : (beginTick inp v).ctlState = .running) (hp : polled (beginTick inp v) = some (c, q))
    (hd : decodeCommand c = .ok i) (hi : i = .read c.tag view ∧ n = 4 ∨ i = .write c.tag view ∧ n = 16)
    (hv : v.halted = false) (hcheck : checkIo v.params view n = some (code, info)) :
    tick exec inp v = .next { beginTick inp v with
      hostq := q, rstCnt := 0, trace := [.fetchCommand], halted := true, faultCode := code, faultInfo := info } := by
  have hf : (fetchCommand (beginTick inp v)).halted = false := by rw [fetchCommand_halted, beginTick_halted, hv]
  have hx := exec_readWrite_of_trap hf hi (by rw [fetchCommand_params, beginTick_params, hcheck])
  rw [tick_of_fault hr hp hd hx rfl]
  exact congrArg (fun w => Host.Outcome.next (raiseFault code info w)) (fetchCommand_beginTick_released hp)

/-! ### The statements -/

/-- Settles O5, by the equations of the two ends of a tick. -/
theorem tickFollowsItsSteps : Obligations.TickFollowsItsSteps :=
  ⟨beginTick_eq, fun _ => ⟨finishTick_of_running, finishTick_of_halted⟩⟩

/-- Settles O6, by the equation of a dispatch and of what follows it. -/
theorem stepRunsTheFetchedCommand : Obligations.StepRunsTheFetchedCommand := by
  intro s v inp c q i hv hr hp hd
  rw [step_of_tickOn hv, tick_of_dispatch hr hp hd]
  simp only [releaseCommand, andThen_afterDispatch_eq]

/-- Settles O8: without a command there is nothing between the beginning and the end of a tick but the poll. -/
theorem stepWithoutACommand : Obligations.StepWithoutACommand := by
  intro s v inp hv
  rw [step_of_tickOn hv]
  refine ⟨tick_of_not_running, fun hr hp => ?_⟩
  rw [tick, pollAndDispatch, if_pos hr, fetchCommand_none hp, dispatch, emit_cmd, beginTick_cmd]
  rfl

/-- Settles O9, by the decoder of the tracker port. -/
theorem stepRunsThePortRequest : Obligations.StepRunsThePortRequest := by
  intro s r rest hs hh hb
  rw [step_of_port hs hh hb, portStep]
  refine ⟨fun h3 => by rw [decodePort_none h3], fun h3 => ?_⟩
  obtain ⟨i, hi⟩ := decodePort_some h3
  exact ⟨i, hi, by rw [hi]⟩

/-- Settles O11, by the equation of a tick whose poll finds an unsupported opcode. -/
theorem unsupportedOpcodeFrame : Obligations.UnsupportedOpcodeFrame := by
  intro s v inp c q hv hr hp hq hop
  rw [step_of_tickOn hv, tick_of_unsupported hr hp hq hop]

/-- Settles O10: the fault and the trace are read off that equation. -/
theorem unsupportedOpcodeHalts : Obligations.UnsupportedOpcodeHalts :=
  fun s v inp c q hv hr hp hq hop => ⟨_, unsupportedOpcodeFrame s v inp c q hv hr hp hq hop, rfl, rfl, rfl, rfl⟩

/-- Settles O13: every event but a block reset waits for a block that is not halted, and so does every meaning. -/
theorem haltedBlockTakesNoStep : Obligations.HaltedBlockTakesNoStep :=
  fun _ hs => ⟨step_of_halted hs, exec_of_halted hs⟩

/-- Settles O14: a block reset asks nothing of the state it is taken in. -/
theorem blockResetRestoresTheResetState : Obligations.BlockResetRestoresTheResetState := by
  intro s timer rest hs
  simp only [step, stepWith, hs, blockReset]

/-- Settles O59, by the equation of a tick that an instruction's fault ends. -/
theorem faultEndsTheTick : Obligations.FaultEndsTheTick := by
  intro s v u inp c q i hv hr hp hd hx hu
  rw [step_of_tickOn hv, tick_of_fault hr hp hd hx hu]

/-- Settles O60: the check that fails is the whole meaning of the command, and its fault ends the tick. -/
theorem malformedCommandEmitsNothing : Obligations.MalformedCommandEmitsNothing := by
  intro s v inp c q view i n hv hr hp hd hi hbad
  obtain ⟨code, info, hcheck, hcode⟩ := checkIo_of_not_inRange hbad
  have hrun : s.ctlState = .running := by
    rw [beginTick_ctlState, hv.ctlState] at hr
    exact running_of_forcedState hr
  refine ⟨_, code, info, (step_of_tickOn hv).trans (tick_of_trap hr hp hd hi hv.ctlState_halted.2 hcheck), hcode, rfl, hrun,
    hr, ?_⟩
  simp only [beginTick_cstsRdy, beginTick_cstsShst, beginTick_adminQ, beginTick_ioqValid, beginTick_cacheEn,
    beginTick_flushTimerBase, beginTick_trk1, beginTick_trk2]
  rw [hv.sameState]
  exact ⟨rfl, rfl, rfl, rfl, rfl, rfl, rfl, rfl⟩

end Sys2Proof.Machine
end

section
/-! SUPPORT and PROOFS of what a step emits (43_control_loop.md R213, R217): every action belongs to one part of a step, the trace of a
tick is the traces of its parts one after another, and so what a part alone may emit is found where that part runs. -/

namespace Sys2Proof.Machine

variable {s t u v : State} {inp : Inputs} {c : Command} {q : List Command} {i : Instr}

/-! ### The part of a step an action belongs to -/

/-- The parts of a step that emit. -/
inductive Part where
  | boot
  | poll
  | command
  | handOver
  | controller
  | background

/-- The part of a step that emits an action (10_state.md section 8.2). -/
def partOf : Action → Part
  | .initFtl => .boot
  | .fetchCommand => .poll
  | .flushSubmissionQueueToLowLevel => .handOver
  | .reconcileCompletedDmaRequests => .background
  | .scheduleStorageRequests => .background
  | .writeCstsRdy _ => .controller
  | .writeCstsShst _ => .controller
  | .setAdminQueue _ _ => .controller
  | .clearAdminQueue => .controller
  | .clearIoQueuePair _ => .controller
  | .persistGrownBadBlockTable _ => .controller
  | .linkResetAsync => .controller
  | .adminCommandHandler _ => .command
  | .translateAndSubmit _ _ _ _ => .command
  | .translateAndSubmitWriteWithBarrier _ _ => .command
  | .flushAllBufferedWrites => .command
  | .flushBufferedWritesForEpoch _ _ => .command
  | .postCompletion _ _ _ => .command
  | .handlerCompletion _ _ _ => .command

theorem partOf_of_mayEmit {a : Action} (h : mayEmit i a) : partOf a = .command := by
  cases i with
  | flush => obtain rfl | ⟨k, e, rfl⟩ | rfl := h <;> rfl
  | write => obtain rfl | rfl := h <;> rfl
  | read => obtain rfl := h; rfl
  | admin => obtain rfl | ⟨x, y, z, rfl⟩ := h <;> rfl
  | push | pop | count => exact h.elim

theorem partOf_of_mem_controllerActions (s : State) : ∀ a ∈ controllerActions s, partOf a = .controller := by
  unfold controllerActions
  cases s.ctlState with
  | idle | shutdown => exact fun _ h => nomatch h
  | waitCcEn | running | waitReset | reset => dsimp only; split <;> simp [partOf, clearActions]

/-- An action of a part that has emitted nothing is not in the trace. -/
theorem not_mem_of_partOf {a : Action} {as : List Action} (h : ∀ b ∈ as, partOf b ≠ partOf a) : a ∉ as :=
  fun ha => h a ha rfl

/-! ### The end of a tick -/

/-- Background scheduling emits its own actions, and none with `run_bg` clear. -/
theorem background_part (s : State) : ∃ bs, (background s).trace = s.trace ++ bs ∧
    ∀ a ∈ bs, partOf a = .background ∧ s.runBg = true := by
  obtain h | ⟨hb, h | h⟩ := background_trace s
  · exact ⟨[], by rw [h, List.append_nil], fun _ ha => nomatch ha⟩
  · exact ⟨_, h, by simp [partOf, hb]⟩
  · exact ⟨_, h, by simp [partOf, hb]⟩

/-- Steps 3 and 4 emit actions of the state controller, and of background scheduling if no fault has ended the tick and `run_bg` is
set. -/
theorem finishTick_trace (u : State) : ∃ rest, (finishTick u).trace = u.trace ++ rest ∧
    ∀ a ∈ rest, partOf a = .controller ∨ (partOf a = .background ∧ u.halted = false ∧ u.runBg = true) := by
  cases hu : u.halted with
  | true => exact ⟨[], by rw [finishTick_of_halted hu, List.append_nil], fun _ ha => nomatch ha⟩
  | false =>
    obtain ⟨bs, hbs, hpart⟩ := background_part (stateStep u)
    refine ⟨controllerActions u ++ bs, by rw [finishTick_of_running hu, hbs, stateStep_trace, List.append_assoc], ?_⟩
    intro a ha
    obtain ha | ha := List.mem_append.mp ha
    · exact .inl (partOf_of_mem_controllerActions u a ha)
    · obtain ⟨hp, hbg⟩ := hpart a ha
      exact .inr ⟨hp, rfl, by rwa [stateStep_runBg] at hbg⟩

/-- With `run_bg` clear there is no background scheduling. -/
theorem background_of_not_runBg (h : s.runBg = false) : background s = s := by simp [background, h]

/-! ### The whole tick -/

/-- A tick polls exactly when it finds the block in RUNNING, and what follows the poll is no poll. -/
theorem tick_poll_trace (h : tick exec inp v = .next t) :
    ((beginTick inp v).ctlState ≠ .running ∧ ∀ a ∈ t.trace, partOf a ≠ .poll) ∨
    ((beginTick inp v).ctlState = .running ∧ ∃ as, t.trace = .fetchCommand :: as ∧ ∀ a ∈ as, partOf a ≠ .poll) := by
  obtain ⟨u, hm, rfl⟩ := tick_middle h
  obtain ⟨rest, hrest, hpart⟩ := finishTick_trace u
  have hrest' : ∀ a ∈ rest, partOf a ≠ .poll := by
    intro a ha
    obtain hp | ⟨hp, -⟩ := hpart a ha <;> rw [hp] <;> nofun
  rw [hrest]
  obtain ⟨hr, ht, -⟩ | ⟨hr, as, ht, has⟩ := hm.trace
  · rw [ht, beginTick_trace]
    exact .inl ⟨hr, hrest'⟩
  · rw [ht, beginTick_trace]
    refine .inr ⟨hr, as ++ rest, rfl, List.forall_mem_append.mpr ⟨?_, hrest'⟩⟩
    obtain rfl | ⟨-, -, i, bs, -, -, hmay, hbs⟩ := has
    · exact fun _ ha => nomatch ha
    · have hb : ∀ a ∈ bs, partOf a ≠ .poll := fun a ha => by rw [partOf_of_mayEmit (hmay a ha)]; nofun
      obtain rfl | ⟨rfl, -⟩ := hbs
      · exact hb
      · exact List.forall_mem_append.mpr ⟨hb, by simp [partOf]⟩

/-- What a command emits in a tick is of the instruction its poll has found. -/
theorem tick_command_action (h : tick exec inp v = .next t) {a : Action} (ha : a ∈ t.trace) (hp : partOf a = .command) :
    ∃ c q i, polled (beginTick inp v) = some (c, q) ∧ decodeCommand c = .ok i ∧ mayEmit i a := by
  obtain ⟨u, hm, rfl⟩ := tick_middle h
  obtain ⟨rest, hrest, hpart⟩ := finishTick_trace u
  rw [hrest] at ha
  obtain ha | ha := List.mem_append.mp ha
  · obtain ⟨-, ht, -⟩ | ⟨-, as, ht, has⟩ := hm.trace <;> rw [ht, beginTick_trace] at ha
    · exact nomatch ha
    · obtain rfl | ha := List.mem_cons.mp ha
      · cases hp
      obtain rfl | ⟨c, q, i, bs, hpoll, hd, hmay, hbs⟩ := has
      · exact nomatch ha
      · refine ⟨c, q, i, hpoll, hd, ?_⟩
        obtain rfl | ⟨rfl, -⟩ := hbs
        · exact hmay a ha
        · obtain ha | ha := List.mem_append.mp ha
          · exact hmay a ha
          · rw [List.mem_singleton.mp ha] at hp; cases hp
  · obtain hc | ⟨hb, -⟩ := hpart a ha
    · rw [hc] at hp; cases hp
    · rw [hb] at hp; cases hp

/-- The hand-over of requests excludes background scheduling: it has cleared `run_bg`, or a fault has ended the tick
(43_control_loop.md R213). -/
theorem tick_handOver_excludes_background (h : tick exec inp v = .next t)
    (hf : .flushSubmissionQueueToLowLevel ∈ t.trace) : ∀ a ∈ t.trace, partOf a ≠ .background := by
  obtain ⟨u, hm, rfl⟩ := tick_middle h
  obtain ⟨rest, hrest, hpart⟩ := finishTick_trace u
  rw [hrest] at hf ⊢
  have hu : .flushSubmissionQueueToLowLevel ∈ u.trace := by
    refine (List.mem_append.mp hf).resolve_right fun hin => ?_
    obtain hc | ⟨hb, -⟩ := hpart _ hin
    · cases hc
    · cases hb
  obtain ⟨-, ht, -⟩ | ⟨-, as, ht, has⟩ := hm.trace <;> rw [ht, beginTick_trace] at hu
  · exact nomatch hu
  replace hu := (List.mem_cons.mp hu).resolve_left (by decide)
  obtain rfl | ⟨-, -, i, bs, -, -, hmay, hbs⟩ := has
  · exact nomatch hu
  have hb : ∀ a ∈ bs, partOf a = .command := fun a ha => partOf_of_mayEmit (hmay a ha)
  obtain rfl | ⟨rfl, hbg⟩ := hbs
  · exact nomatch hb _ hu
  rw [ht, beginTick_trace]
  refine List.forall_mem_append.mpr ⟨?_, fun a ha => ?_⟩
  · refine List.forall_mem_cons.mpr ⟨nofun, List.forall_mem_append.mpr ⟨fun a ha => ?_, by simp [partOf]⟩⟩
    rw [hb a ha]; nofun
  · obtain hc | ⟨-, hh, hon⟩ := hpart a ha
    · rw [hc]; nofun
    · rw [hbg hh] at hon; cases hon

/-! ### The dispatch of an I/O command -/

/-- After the dispatch of an I/O command a fault has ended the tick or `run_bg` is clear (43_control_loop.md R213). -/
theorem andThen_afterDispatch_ends (hq : c.tag.qid ≠ 0) (u : State) :
    (andThen u (afterDispatch c)).halted = true ∨ (andThen u (afterDispatch c)).runBg = false := by
  cases hu : u.halted with
  | true => exact .inl (by rw [andThen_of_halted _ _ hu, hu])
  | false =>
    rw [andThen_of_running _ _ hu, afterDispatch_io hq, andThen]
    split
    · exact .inl ‹_›
    · exact .inr rfl

theorem andThen_afterDispatch_trace (c : Command) (u : State) :
    (andThen u (afterDispatch c)).trace = u.trace ∨
    (andThen u (afterDispatch c)).trace = u.trace ++ [.flushSubmissionQueueToLowLevel] := by
  rw [andThen]
  split
  · exact .inl rfl
  · exact (afterDispatch_trace c u).imp And.left And.left

/-- A tick that dispatches an I/O command, faulting or not, schedules nothing in the background. -/
theorem tick_io_no_background (h : tick exec inp v = .next t) (hr : (beginTick inp v).ctlState = .running)
    (hp : polled (beginTick inp v) = some (c, q)) (hq : c.tag.qid ≠ 0) : ∀ a ∈ t.trace, partOf a ≠ .background := by
  rw [tick_of_polled hr hp] at h
  cases hd : decodeCommand c with
  | error op =>
    rw [hd] at h
    cases h
    rw [finishTick_of_halted rfl]
    show ∀ a ∈ (fetchCommand (beginTick inp v)).trace, partOf a ≠ .background
    rw [fetchCommand_trace, beginTick_trace]
    simp [partOf]
  | ok i =>
    rw [hd] at h
    obtain ⟨u, hx, hu⟩ := onNext_eq_next.mp h
    cases hu
    obtain ⟨rest, hrest, hpart⟩ := finishTick_trace (releaseCommand (andThen u (afterDispatch c)))
    obtain ⟨bs, hbs, hmay⟩ := exec_trace hx
    rw [hrest, releaseCommand_trace]
    refine List.forall_mem_append.mpr ⟨?_, fun a ha => ?_⟩
    · have hcommand : ∀ a ∈ u.trace, partOf a ≠ .background := by
        rw [hbs, fetchCommand_trace, beginTick_trace]
        exact List.forall_mem_append.mpr ⟨by simp [partOf], fun a ha => by rw [partOf_of_mayEmit (hmay a ha)]; nofun⟩
      obtain ht | ht := andThen_afterDispatch_trace c u <;> rw [ht]
      · exact hcommand
      · exact List.forall_mem_append.mpr ⟨hcommand, by simp [partOf]⟩
    · obtain hc | ⟨-, hh, hon⟩ := hpart a ha
      · rw [hc]; nofun
      · rw [releaseCommand_halted] at hh
        rw [releaseCommand_runBg] at hon
        obtain he | he := andThen_afterDispatch_ends hq u
        · rw [he] at hh; cases hh
        · rw [he] at hon; cases hon

/-! ### A step -/

/-- Only a tick polls, runs a command, hands requests on or schedules in the background: every other step emits `InitFtl` at most. -/
theorem step_emits_in_a_tick {a : Action} (h : step s = .next t) (ha : a ∈ t.trace) (hp : partOf a ≠ .boot) :
    ∃ inp v, TickOn s inp v ∧ tick exec inp v = .next t := by
  obtain ⟨timer, rest, -, rfl⟩ | ⟨-, -, -, rfl⟩ | ⟨-, inp, v, hv, ht⟩ | ⟨-, -, -, r, rest, i, -, hd, hx⟩ := step_cases h
  · exact nomatch ha
  · rw [boot_trace] at ha
    rw [List.mem_singleton.mp ha] at hp
    exact absurd rfl hp
  · exact ⟨inp, v, hv, ht⟩
  · rw [exec_port_trace hd hx] at ha
    exact nomatch ha

/-! ### The hand-over -/

/-- The state a hand-over leaves, the PUSHes of its return performed. -/
theorem tick_of_handOver {w : State} (hr : (beginTick inp v).ctlState = .running)
    (hp : polled (beginTick inp v) = some (c, q)) (hd : decodeCommand c = .ok i)
    (hx : exec i (fetchCommand (beginTick inp v)) = .next u) (hu : u.halted = false) (hq : c.tag.qid ≠ 0)
    (hw : w = callPipeline .flushSubmissionQueueToLowLevel u) :
    (w.halted = true → tick exec inp v = .next { w with cmd := none }) ∧
    (w.halted = false → tick exec inp v = .next (stateStep { w with cmd := none, runBg := false })) := by
  rw [tick_of_dispatch hr hp hd, hx, onNext_next, andThen_of_running _ _ hu, afterDispatch_io hq, ← hw]
  refine ⟨fun hh => ?_, fun hh => ?_⟩
  · rw [andThen_of_halted _ _ hh, finishTick_of_halted (s := releaseCommand w) hh, releaseCommand]
  · rw [andThen_of_running _ _ hh, finishTick_of_running (s := releaseCommand (skipBackground w)) hh,
      background_of_not_runBg (by rw [stateStep_runBg]; rfl)]
    rfl

/-- ADMIN leaves `run_bg` as the tick has set it. -/
theorem exec_admin_runBg {tag : CmdTag} {dw : Dwords} (hx : exec (.admin tag dw) s = .next t) : t.runBg = s.runBg := by
  rw [exec_admin, perform_eq_next] at hx
  obtain ⟨-, rfl⟩ := hx
  rw [handlerActs_frame, emit_runBg]

theorem background_runBg (s : State) : (background s).runBg = s.runBg := by
  unfold background
  split
  · have h1 := (callPipeline_frame .reconcileCompletedDmaRequests s).andThen (callPipeline_frame .scheduleStorageRequests _)
    exact h1.runBg
  · rfl

/-- A tick that dispatches ADMIN hands nothing on and leaves `run_bg` set (43_control_loop.md R213). -/
theorem tick_of_admin {tag : CmdTag} {dw : Dwords} (hr : (beginTick inp v).ctlState = .running)
    (hp : polled (beginTick inp v) = some (c, q)) (hd : decodeCommand c = .ok (.admin tag dw)) (hq : c.tag.qid = 0)
    (hx : exec (.admin tag dw) (fetchCommand (beginTick inp v)) = .next u) (hu : u.halted = false) :
    tick exec inp v = .next (background (stateStep { u with cmd := none })) ∧
      .flushSubmissionQueueToLowLevel ∉ (background (stateStep { u with cmd := none })).trace ∧
      (background (stateStep { u with cmd := none })).runBg = true := by
  have hfin : finishTick { u with cmd := none } = background (stateStep { u with cmd := none }) :=
    finishTick_of_running hu
  refine ⟨?_, ?_, ?_⟩
  · rw [tick_of_dispatch hr hp hd, hx, onNext_next, andThen_of_running _ _ hu, afterDispatch_admin hq, ← hfin]
    rfl
  · obtain ⟨as, has, hmay⟩ := exec_trace hx
    obtain ⟨rest, hrest, hpart⟩ := finishTick_trace { u with cmd := none }
    rw [← hfin, hrest, has, fetchCommand_trace, beginTick_trace]
    refine not_mem_of_partOf (List.forall_mem_append.mpr ⟨List.forall_mem_append.mpr ⟨by simp [partOf], ?_⟩, ?_⟩)
    · exact fun a ha => by rw [partOf_of_mayEmit (hmay a ha)]; nofun
    · intro a ha
      obtain hc | ⟨hb, -⟩ := hpart a ha
      · rw [hc]; nofun
      · rw [hb]; nofun
  · rw [background_runBg, stateStep_runBg]
    exact (exec_admin_runBg hx).trans (by rw [fetchCommand_runBg, beginTick_runBg])

/-! ### Background scheduling -/

/-- Background scheduling, when there is something to do (43_control_loop.md R217). -/
theorem background_of_pending (hb : s.runBg = true)
    (hp : s.inp.dmaPending = true ∨ s.inp.nandOutstanding = true ∨ s.inp.reqBlocked = true) :
    background s =
      andThen (callPipeline .reconcileCompletedDmaRequests s) (callPipeline .scheduleStorageRequests) := by
  rw [background, if_pos (by simpa [hb] using hp)]

theorem background_of_nothing
    (h : s.runBg = false ∨ s.inp.dmaPending = false ∧ s.inp.nandOutstanding = false ∧ s.inp.reqBlocked = false) :
    background s = s := by
  obtain h | ⟨h1, h2, h3⟩ := h
  · exact background_of_not_runBg h
  · simp [background, h1, h2, h3]

/-! ### The statements -/

/-- Settles O7: the hand-over is one storage-pipeline call, and ADMIN has none. -/
theorem ioDispatchHandsOver : Obligations.IoDispatchHandsOver := by
  intro s v u w inp c q i hv hr hp hd hx hu hw
  rw [← callPipeline_eq] at hw
  rw [step_of_tickOn hv]
  refine ⟨fun hq => ?io, fun hq => ?admin⟩
  case io =>
    obtain ⟨hhalted, hrunning⟩ := tick_of_handOver hr hp hd hx hu hq hw
    refine ⟨hhalted, hrunning, fun t ht => ?_⟩
    have htrace : w.trace = u.trace ++ [.flushSubmissionQueueToLowLevel] := by rw [hw, callPipeline_trace]
    cases hh : w.halted with
    | true =>
      cases (hhalted hh).symm.trans ht
      exact ⟨⟨[], htrace⟩, fun h => absurd (hh.symm.trans h) (by decide)⟩
    | false =>
      cases (hrunning hh).symm.trans ht
      refine ⟨⟨controllerActions { w with cmd := none, runBg := false }, ?_⟩, fun _ => by rw [stateStep_runBg]⟩
      rw [stateStep_trace, htrace, List.append_assoc, List.singleton_append]
  case admin =>
    obtain ⟨-, rfl⟩ | ⟨hq', -⟩ | ⟨hq', -⟩ | ⟨hq', -⟩ := decodeCommand_cases hd
    case inl =>
      obtain ⟨htick, htrace, hbg⟩ := tick_of_admin hr hp hd hq hx hu
      refine ⟨htick, fun t ht => ?_⟩
      cases htick.symm.trans ht
      exact ⟨htrace, hbg⟩
    all_goals exact absurd hq hq'

/-- Settles O54, by what stands before and after the poll in the trace of a tick. -/
theorem pollsOnceInRunning : Obligations.PollsOnceInRunning := by
  refine ⟨fun s t v inp hv h => ?_, fun s t hno h ha => ?_⟩
  · rw [step_of_tickOn hv] at h
    rw [← hv.ctlState, ← beginTick_ctlState]
    obtain ⟨hr, ht⟩ | ⟨hr, as, ht, has⟩ := tick_poll_trace h
    · rw [if_neg hr, List.count_eq_zero.mpr (not_mem_of_partOf ht)]
    · rw [if_pos hr, ht, List.count_cons_self, List.count_eq_zero.mpr (not_mem_of_partOf has)]
  · obtain ⟨inp, v, hv, -⟩ := step_emits_in_a_tick h ha nofun
    exact hno inp v hv

/-- Settles O56, by where in a tick background scheduling may emit. -/
theorem dispatchExcludesBackground : Obligations.DispatchExcludesBackground := by
  have hboth : ∀ {t : State}, (∀ a ∈ t.trace, partOf a ≠ .background) →
      .reconcileCompletedDmaRequests ∉ t.trace ∧ .scheduleStorageRequests ∉ t.trace :=
    fun h => ⟨not_mem_of_partOf h, not_mem_of_partOf h⟩
  refine fun s t h => ⟨fun v inp c q hv hr hp hq => ?_, fun hf => ?_⟩
  · rw [step_of_tickOn hv] at h
    exact hboth (tick_io_no_background h hr hp hq)
  · obtain ⟨inp, v, -, ht⟩ := step_emits_in_a_tick h hf nofun
    exact hboth (tick_handOver_excludes_background ht hf)

/-- Settles O57, by the two calls and the PUSHes each brings. -/
theorem backgroundScheduling : Obligations.BackgroundScheduling := by
  refine fun s => ⟨fun hb hp hs => ⟨fun t ht => ?_, fun hquiet => ?_⟩, background_of_nothing⟩
  · rw [← callPipeline_eq] at ht
    rw [background_of_pending hb hp, ← ht, ← callPipeline_eq]
    exact ⟨andThen_of_halted t _, andThen_of_running t _⟩
  · rw [background_of_pending hb hp, callPipeline_quiet _ hquiet, andThen_of_running (emit _ s) _ hs,
      callPipeline_quiet (s := emit _ s) _ hquiet]
    simp [emit]

/-- Settles O58: a completion is an action of the instruction the tick's poll has found, and only FLUSH posts one. -/
theorem completionsAreOfFlushes : Obligations.CompletionsAreOfFlushes := by
  intro s t slot specific status h ha
  obtain ⟨inp, v, hv, ht⟩ := step_emits_in_a_tick h ha nofun
  obtain ⟨c, q, i, hp, hd, hmay⟩ := tick_command_action ht ha rfl
  obtain ⟨-, rfl⟩ | ⟨-, -, rfl⟩ | ⟨-, -, rfl⟩ | ⟨-, -, rfl⟩ := decodeCommand_cases hd
  case inl => obtain hm | ⟨x, y, z, hm⟩ := hmay <;> cases hm
  case inr.inl =>
    obtain hm | ⟨k, e, hm⟩ | hm := hmay <;> cases hm
    exact ⟨rfl, rfl, inp, v, c, q, viewOf c.dw, hv, hp, hd, rfl⟩
  case inr.inr.inl => obtain hm | hm := hmay <;> cases hm
  case inr.inr.inr => cases hmay

end Sys2Proof.Machine
end

section
/-! SUPPORT and PROOFS of POP, COUNT and the capacity boundary, and of the two ways a stream is a queue: what popping it until it is
empty returns, and the FIFO property of interleaved operations (40_barrier_tracker.md R130 to R134). -/

namespace Sys2Proof.Machine

variable {s t u : State} {k j : StreamId} {b : BarrierStream} {inv : Epoch}

/-! ### The operations on a stream, on a running block -/

theorem exec_push_of_room (hs : s.halted = false) (h : capacityExceeded s.params.capCheck (trk s k).count = false)
    (e : Epoch) :
    exec (.push (streamWord k) e) s = .next (setTrk k ((trk s k).append s.params.epochInvalid e) s) := by
  rw [exec_push_of_running hs, trkPush_append h]

theorem exec_push_of_full (hs : s.halted = false) (h : capacityExceeded s.params.capCheck (trk s k).count = true)
    (e : Epoch) :
    exec (.push (streamWord k) e) s =
      .next { s with halted := true, faultCode := .trkFull, faultInfo := .word (streamWord k) } := by
  rw [exec_push_of_running hs, trkPush_full h, raiseFault]

theorem exec_pop_of_empty (hs : s.halted = false) (h : (trk s k).count = 0) :
    exec (.pop (streamWord k)) s =
      .next { s with halted := true, faultCode := .trkEmpty, faultInfo := .word (streamWord k) } := by
  rw [exec_pop_streamWord, perform_of_running _ _ hs, popOn, if_pos h, raiseFault]

theorem exec_pop_of_head (hs : s.halted = false) (h : (trk s k).count ≠ 0) :
    exec (.pop (streamWord k)) s =
      .next (answerPort (.epoch ((trk s k).buf.read s.params.epochInvalid (trk s k).head))
        (setTrk k ((trk s k).dropHead s.params.epochInvalid) s)) := by
  rw [exec_pop_streamWord, perform_of_running _ _ hs, popOn, if_neg h]
  rfl

theorem exec_count_of_stream (hs : s.halted = false) (k : StreamId) :
    exec (.count (streamWord k)) s = .next (answerPort (.count (BitVec.ofNat 9 (trk s k).count)) s) := by
  rw [exec_count_streamWord, perform_of_running _ _ hs, countOn]

theorem exec_badStream_of_running {w : Word} {e : Epoch} {i : Instr} (hs : s.halted = false) (h1 : w ≠ 1#32)
    (h2 : w ≠ 2#32) (hi : i = .push w e ∨ i = .pop w ∨ i = .count w) :
    exec i s = .next { s with halted := true, faultCode := .trkBadStream, faultInfo := .word w } := by
  rw [exec_of_badStream (streamOf_eq_none.mpr ⟨h1, h2⟩) hi, perform_of_running _ _ hs, raiseFault]

/-! ### The vacated head -/

theorem dropHead_head_val (b : BarrierStream) : (b.dropHead inv).head.val = (b.head.val + 1) % 256 := fin256_succ b.head

theorem dropHead_read (hw : b.buf.wf inv = true) (a : Nat) :
    (b.dropHead inv).buf.read inv a = if a = b.head.val then inv else b.buf.read inv a :=
  Memory.read_write hw b.head a inv

theorem dropHead_wf (hw : b.buf.wf inv = true) : (b.dropHead inv).buf.wf inv = true :=
  Memory.wf_write hw b.head.isLt inv

/-- A stream's slots come round after 256. -/
theorem slotOf_256 (b : BarrierStream) : slotOf b 256 = b.head.val := by
  have := b.head.isLt
  simp only [slotOf, Config.trkCap]
  omega

/-! ### The capacity check -/

theorem capacityExceeded_of_lt {n : Nat} (c : CapCheck) (h : n < 256) : capacityExceeded c n = false := by
  cases c with
  | strict => exact decide_eq_false (by simp only [Config.trkCap]; omega)
  | reference => exact decide_eq_false (by simp only [Config.trkCap]; omega)

/-! ### Popping a stream until it is empty -/

/-- The epochs popped are the head's and then those popped from what POP leaves: the slot it vacates comes round as the 257th, and
is then read as the sentinel (40_barrier_tracker.md R132). -/
theorem poppedFrom_dropHead (hw : b.buf.wf inv = true) (hc : b.count ≠ 0) :
    poppedFrom inv b = b.buf.read inv b.head :: poppedFrom inv (b.dropHead inv) := by
  obtain ⟨n, hn⟩ := Nat.exists_eq_succ_of_ne_zero hc
  have hhead : (if 0 < Config.trkCap then b.buf.read inv (slotOf b 0) else inv) = b.buf.read inv b.head := by
    rw [if_pos (by decide), slotOf_zero]
  rw [poppedFrom, poppedFrom, dropHead_count, hn, Nat.succ_sub_one, List.range_succ_eq_map, List.map_cons, hhead,
    List.map_map]
  congr 1
  refine List.map_congr_left fun i _ => ?_
  rw [Function.comp_apply, slotOf_dropHead, dropHead_read hw]
  obtain hlt | rfl | hgt : i + 1 < 256 ∨ i = 255 ∨ 256 ≤ i := by omega
  · have hne : slotOf b (i + 1) ≠ b.head.val := by
      rw [← slotOf_zero b]
      exact (slotOf_ne (by omega) (by omega)).symm
    rw [if_pos hlt, if_pos (show i < Config.trkCap by simp only [Config.trkCap]; omega), if_neg hne]
  · rw [if_neg (by decide), if_pos (by decide), if_pos (slotOf_256 b)]
  · rw [if_neg (by simp only [Config.trkCap]; omega), if_neg (by simp only [Config.trkCap]; omega)]

theorem poppedFrom_of_count_zero (h : b.count = 0) : poppedFrom inv b = [] := by simp [poppedFrom, h]

/-- Up to 256 epochs, what is popped are the contents. -/
theorem poppedFrom_eq_contents (h : b.count ≤ 256) : poppedFrom inv b = contents inv b := by
  refine List.map_congr_left fun i hi => if_pos ?_
  have := List.mem_range.mp hi
  simp only [Config.trkCap]
  omega

/-- From an overflowed stream the 256 slots are popped and then the sentinel. -/
theorem poppedFrom_overflowed (h : b.count = 257) :
    poppedFrom inv b = (List.range 256).map (fun i => b.buf.read inv ((b.head.val + i) % 256)) ++ [inv] := by
  rw [poppedFrom, h, List.range_succ, List.map_append, List.map_singleton, if_neg (Nat.lt_irrefl 256)]
  exact congrArg (· ++ [inv]) (List.map_congr_left fun i hi => if_pos (List.mem_range.mp hi))

/-- As many POPs as the stream counts epochs empty it, without a fault. -/
theorem popTimes_count {n : Nat} : ∀ {s : State}, s.halted = false → (trk s k).count = n →
    (trk s k).buf.wf s.params.epochInvalid = true →
      ∃ t, popTimes n k s = some (poppedFrom s.params.epochInvalid (trk s k), t) ∧ t.halted = false ∧
        (trk t k).count = 0 := by
  induction n with
  | zero => exact fun {s} hs hc _ => ⟨s, by rw [popTimes, poppedFrom_of_count_zero hc], hs, hc⟩
  | succ n ih =>
    intro s hs hc hw
    have hne : (trk s k).count ≠ 0 := by omega
    obtain ⟨u, hu⟩ : ∃ u, u = answerPort (.epoch ((trk s k).buf.read s.params.epochInvalid (trk s k).head))
        (setTrk k ((trk s k).dropHead s.params.epochInvalid) s) := ⟨_, rfl⟩
    have htrk : trk u k = (trk s k).dropHead s.params.epochInvalid := by rw [hu, trk_answerPort, trk_setTrk_same]
    have hhalted : u.halted = false := by rw [hu, answerPort_halted, setTrk_halted, hs]
    have hparams : u.params = s.params := by rw [hu, answerPort_params, setTrk_params]
    have hport : u.portResult = .epoch ((trk s k).buf.read s.params.epochInvalid (trk s k).head) := by
      rw [hu, answerPort_portResult]
    obtain ⟨t, ht, hth, htc⟩ := ih hhalted (by rw [htrk, dropHead_count, hc, Nat.add_sub_cancel])
      (by rw [htrk, hparams]; exact dropHead_wf hw)
    refine ⟨t, ?_, hth, htc⟩
    rw [popTimes, exec_pop_of_head hs hne, ← hu]
    simp only [hhalted, hport, ht, hparams, htrk, Option.map_some, poppedFrom_dropHead hw hne]

/-! ### Interleaved operations -/

/-- The epoch one operation has popped from stream `k`, if any, read off the port's answer. -/
def poppedBy (k : StreamId) (op : TrkOp) (t : State) : List Epoch :=
  match op, t.portResult with
  | .pop j, .epoch e => if j = k then [e] else []
  | _, _ => []

/-- What a run of operations that begins with `op` is. -/
theorem runTrkOps_cons {op : TrkOp} {ops : List TrkOp} {es : List Epoch} (h : runTrkOps k (op :: ops) s = some (es, u)) :
    ∃ t es', exec (trkInstr op) s = .next t ∧ t.halted = false ∧ (trk t k).count ≤ 256 ∧
      runTrkOps k ops t = some (es', u) ∧ es = poppedBy k op t ++ es' := by
  rw [runTrkOps] at h
  cases hx : exec (trkInstr op) s with
  | fault r => rw [hx] at h; cases h
  | refused r => rw [hx] at h; cases h
  | next t =>
    simp only [hx] at h
    split at h
    · cases h
    rename_i hok
    rw [not_or, Bool.not_eq_true, Nat.not_lt] at hok
    cases hrun : runTrkOps k ops t with
    | none => rw [hrun] at h; cases h
    | some r =>
      obtain ⟨es', u'⟩ := r
      rw [hrun] at h
      obtain ⟨hhalted, hcount⟩ := hok
      refine ⟨t, es', rfl, hhalted, hcount, ?_⟩
      cases op with
      | push j e => cases h; exact ⟨hrun, rfl⟩
      | count j => cases h; exact ⟨hrun, rfl⟩
      | pop j =>
        cases hport : t.portResult with
        | none => rw [hport] at h; cases h; exact ⟨hrun, by simp [poppedBy, hport]⟩
        | count n => rw [hport] at h; cases h; exact ⟨hrun, by simp [poppedBy, hport]⟩
        | epoch e =>
          rw [hport] at h
          cases h
          refine ⟨hrun, ?_⟩
          simp only [poppedBy, hport]
          split <;> rfl

theorem pushedOn_cons (k : StreamId) (op : TrkOp) (ops : List TrkOp) :
    pushedOn k (op :: ops) = pushedOn k [op] ++ pushedOn k ops := by
  cases op with
  | push j e =>
    by_cases h : j = k
    · rw [pushedOn, pushedOn, if_pos h, if_pos h]; rfl
    · rw [pushedOn, pushedOn, if_neg h, if_neg h]; rfl
  | pop j => rfl
  | count j => rfl

theorem streamWord_injective (h : streamWord j = streamWord k) : j = k :=
  Option.some.inj (by rw [← streamOf_streamWord j, h, streamOf_streamWord])

/-- From `s` to `t` stream `k` stays as it should be, and is the queue it was, with the epochs pushed put at its end and the epochs
popped taken from its front. -/
structure QueueStep (k : StreamId) (s t : State) (pushed popped : List Epoch) : Prop where
  ok : StreamOk t.params (trk t k)
  queue : contents s.params.epochInvalid (trk s k) ++ pushed = popped ++ contents s.params.epochInvalid (trk t k)

/-- A stream that stays as it was is the queue it was. -/
theorem QueueStep.of_same (hok : StreamOk s.params (trk s k)) (hp : t.params = s.params) (ht : trk t k = trk s k) :
    QueueStep k s t [] [] := ⟨by rwa [hp, ht], by rw [ht, List.append_nil]; rfl⟩

/-- An operation on another stream. -/
theorem QueueStep.of_other {e : Epoch} {i : Instr} (hok : StreamOk s.params (trk s k)) (hj : j ≠ k)
    (hi : i = .push (streamWord j) e ∨ i = .pop (streamWord j) ∨ i = .count (streamWord j)) (hx : exec i s = .next t) :
    QueueStep k s t [] [] := by
  obtain ⟨hsame, -⟩ := streamsAreIndependent k _ e i (fun h => hj (streamWord_injective h)) hi s t (trk s k) hx
  exact .of_same hok ((params_keptByStep s.params).toKeptByOps.exec hx rfl) hsame

/-- A PUSH that takes no fault and leaves at most 256 epochs. -/
theorem QueueStep.of_push {e : Epoch} (hok : StreamOk s.params (trk s k)) (hx : exec (.push (streamWord k) e) s = .next t)
    (ht : t.halted = false) (hle : (trk t k).count ≤ 256) : QueueStep k s t [e] [] := by
  have hs := running_of_exec hx
  cases hcap : capacityExceeded s.params.capCheck (trk s k).count with
  | true => cases (exec_push_of_full hs hcap e).symm.trans hx; cases ht
  | false =>
    cases (exec_push_of_room hs hcap e).symm.trans hx
    rw [trk_setTrk_same, append_count] at hle
    refine ⟨by rw [trk_setTrk_same, setTrk_params]; exact hok.append hcap e, ?_⟩
    rw [trk_setTrk_same, contents_append hok.buf_wf hok.tail_eq hle]
    rfl

/-- A POP that takes no fault, from at most 256 epochs: the epoch it takes is the port's answer. -/
theorem QueueStep.of_pop (hok : StreamOk s.params (trk s k)) (hle : (trk s k).count ≤ 256)
    (hx : exec (.pop (streamWord k)) s = .next t) (ht : t.halted = false) :
    ∃ e, t.portResult = .epoch e ∧ QueueStep k s t [] [e] := by
  have hs := running_of_exec hx
  by_cases hc : (trk s k).count = 0
  · cases (exec_pop_of_empty hs hc).symm.trans hx; cases ht
  · cases (exec_pop_of_head hs hc).symm.trans hx
    refine ⟨_, rfl, ?_, ?_⟩
    · rw [trk_answerPort, trk_setTrk_same, answerPort_params, setTrk_params]
      exact hok.dropHead hc
    · rw [trk_answerPort, trk_setTrk_same, contents_dropHead hc hle, List.append_nil]
      rfl

/-- One operation, on stream `k` or on the other, that takes no fault and leaves at most 256 epochs on stream `k`. -/
theorem trkOp_queueStep {op : TrkOp} (hok : StreamOk s.params (trk s k)) (hle : (trk s k).count ≤ 256)
    (hx : exec (trkInstr op) s = .next t) (ht : t.halted = false) (htle : (trk t k).count ≤ 256) :
    QueueStep k s t (pushedOn k [op]) (poppedBy k op t) := by
  cases op with
  | push j e =>
    by_cases hj : j = k
    · subst hj
      rw [pushedOn, if_pos rfl]
      exact .of_push hok hx ht htle
    · rw [pushedOn, if_neg hj]
      exact .of_other hok hj (.inl rfl) hx
  | pop j =>
    by_cases hj : j = k
    · subst hj
      obtain ⟨e, hport, hstep⟩ := QueueStep.of_pop hok hle hx ht
      simpa [pushedOn, poppedBy, hport] using hstep
    · have hnone : poppedBy k (.pop j) t = [] := by
        cases hport : t.portResult <;> simp [poppedBy, hport, hj]
      rw [hnone]
      exact .of_other (e := 0#32) hok hj (.inr (.inl rfl)) hx
  | count j =>
    cases (exec_count_of_stream (running_of_exec hx) j).symm.trans hx
    exact .of_same hok rfl (trk_answerPort _ _ _)

/-! ### The statements -/

/-- Settles O18, by the three cases of POP. -/
theorem popFollowsItsRule : Obligations.PopFollowsItsRule := by
  refine fun s w hs => ⟨fun h1 h2 => exec_badStream_of_running (e := 0#32) hs h1 h2 (.inr (.inl rfl)), ?_⟩
  rintro k rfl
  refine ⟨exec_pop_of_empty hs, fun hc hw => ⟨_, exec_pop_of_head hs hc, ?_⟩⟩
  rw [trk_answerPort, trk_setTrk_same]
  exact ⟨rfl, dropHead_head_val _, rfl, rfl, dropHead_read hw⟩

/-- Settles O19, by the two cases of COUNT. -/
theorem countObserves : Obligations.CountObserves := by
  refine fun s w hs => ⟨fun h1 h2 => exec_badStream_of_running (e := 0#32) hs h1 h2 (.inr (.inr rfl)), ?_⟩
  rintro k rfl
  exact exec_count_of_stream hs k

/-- Settles O17: a return performs its first pair as PUSH does, and goes on unless that has faulted. -/
theorem pushesAtAReturnRunInOrder : Obligations.PushesAtAReturnRunInOrder :=
  fun s r _ hs => ⟨pushAll_nil s, _, exec_push_of_running hs r.stream r.epoch, rfl⟩

/-- Settles O20, by what the capacity check says on each side of the boundary, and by where the tail stands. -/
theorem capacityBoundary : Obligations.CapacityBoundary := by
  intro s k e hs hok
  refine ⟨fun hlt => ?room, fun hcap hc => ?strictFull, fun hcap hc => ?referenceFull, fun hcap hc => ?overflowed⟩
  case room =>
    refine ⟨_, exec_push_of_room hs (capacityExceeded_of_lt _ hlt) e, ?_⟩
    rw [trk_setTrk_same]
    refine ⟨rfl, rfl, append_tail_val e, rfl, ?_, fun a ha => ?_⟩
    · rw [append_read hok.buf_wf, if_pos rfl]
    · rw [append_read hok.buf_wf, if_neg ha]
  case strictFull => exact exec_push_of_full hs (by rw [hcap, hc]; rfl) e
  case referenceFull =>
    have htail : (trk s k).tail.val = (trk s k).head.val := by rw [hok.tail_eq, hc, slotOf_256]
    refine ⟨_, exec_push_of_room hs (by rw [hcap, hc]; rfl) e, by rw [setTrk_halted, hs], ?_⟩
    rw [trk_setTrk_same]
    refine ⟨by rw [append_count, hc], ?_, fun a ha => ?_⟩
    · rw [append_read hok.buf_wf, if_pos htail.symm]
    · rw [append_read hok.buf_wf, if_neg (by rwa [htail])]
  case overflowed => exact exec_push_of_full hs (by rw [hcap, hc]; rfl) e

/-- Settles O21: as many POPs as the stream counts return what popping it until it is empty returns. -/
theorem overflowedStreamPops : Obligations.OverflowedStreamPops := by
  intro s k hs _ hok hc
  rw [← poppedFrom_overflowed hc]
  exact popTimes_count hs hc hok.buf_wf

/-- Settles O23, by induction over the operations. -/
theorem popsAreInPushOrder : Obligations.PopsAreInPushOrder := by
  intro k ops
  induction ops with
  | nil =>
    intro s t es _ _ h
    cases h
    simp [pushedOn]
  | cons op ops ih =>
    intro s t es hok hle h
    obtain ⟨u, es', hx, hu, hule, hrun, rfl⟩ := runTrkOps_cons h
    obtain ⟨huok, hqueue⟩ := trkOp_queueStep hok hle hx hu hule
    have hrest := ih u t es' huok hule hrun
    rw [(params_keptByStep s.params).toKeptByOps.exec hx rfl] at hrest
    rw [pushedOn_cons, ← List.append_assoc, hqueue, List.append_assoc, hrest, List.append_assoc]

end Sys2Proof.Machine
end

section
/-! SUPPORT and PROOFS of READ, WRITE, ADMIN and the non-barrier FLUSH (42_io_commands.md section 3, 43_control_loop.md R214): each as one
equation for each way it can go, and what it leaves unchanged. -/

namespace Sys2Proof.Machine

variable {s t : State} {tag : CmdTag} {v : IoView}

/-! ### READ and WRITE that pass their checks -/

theorem exec_read_of_pass (hs : s.halted = false) (hl : LbaInRange s.params v)
    (h1 : PrpInRange s.params v.prp1Lo v.prp1Hi 4) (h2 : PrpInRange s.params v.prp2Lo v.prp2Hi 4) :
    exec (.read tag v) s = .next (callPipeline (.translateAndSubmit tag.slot (v.lbaHigh ++ v.lbaLow) v.nlb .read) s) := by
  rw [exec_read, perform_of_running _ _ hs, checkIo_inRange hl h1 h2]
  rfl

/-- The one submission of a WRITE, by `BARRIER_MODE` (42_io_commands.md R187). -/
def writeSubmission (p : Params) (tag : CmdTag) (v : IoView) : Action :=
  if p.barrierMode then .translateAndSubmitWriteWithBarrier tag.slot (dwordsOf 0x01#8 v)
  else .translateAndSubmit tag.slot (startLba v) v.nlb .write

theorem exec_write_of_pass (hs : s.halted = false) (hl : LbaInRange s.params v)
    (h1 : PrpInRange s.params v.prp1Lo v.prp1Hi 16) (h2 : PrpInRange s.params v.prp2Lo v.prp2Hi 16) :
    exec (.write tag v) s = .next (callPipeline (writeSubmission s.params tag v) s) := by
  rw [exec_write, perform_of_running _ _ hs, checkIo_inRange hl h1 h2]
  rfl

/-- A submission covers NLB + 1 blocks, which 17 bits hold. -/
theorem nblocks_toNat (n : BitVec 16) : (nblocks n).toNat = n.toNat + 1 := by
  have := n.isLt
  simp only [nblocks, BitVec.toNat_add, BitVec.toNat_setWidth, BitVec.toNat_ofNat]
  omega

/-! ### Frames -/

theorem checked_frame (k : Option Trap) (s : State) (a : Action) : PipelineFrame s (checked k s (callPipeline a)) := by
  unfold checked
  split
  · exact raiseFault_frame _ _ _
  · exact callPipeline_frame _ _

theorem persisted_frame (s : State) : PipelineFrame s (persisted s) := by
  unfold persisted
  split
  · exact (drainStream_frame .one s).andThen (drainStream_frame .two _)
  · exact callPipeline_frame _ _

/-! ### The operands that count -/

/-- The checks read the PRPs and the LBA words only. -/
theorem checkIo_congr {w : IoView} (p : Params) (n : Nat) (h1 : v.prp1Lo = w.prp1Lo) (h2 : v.prp1Hi = w.prp1Hi)
    (h3 : v.prp2Lo = w.prp2Lo) (h4 : v.prp2Hi = w.prp2Hi) (h5 : v.lbaLow = w.lbaLow) (h6 : v.lbaHigh = w.lbaHigh) :
    checkIo p v n = checkIo p w n := by
  rw [checkIo, checkIo, h1, h2, h3, h4, h5, h6]

/-! ### FLUSH without barrier support -/

theorem exec_flush_of_noBarrier (hs : s.halted = false) (hb : s.params.barrierMode = false) :
    exec (.flush tag v) s =
      .next (andThen (callPipeline .flushAllBufferedWrites s) (emit (.postCompletion tag.slot 0 0))) := by
  rw [exec_flush, attempt_of_running _ _ hs, flushPersist, if_neg (by simp [hb]), onNext_next]

/-! ### The admin handler's acts -/

/-- Everything the handler's acts do: each bit holds the last value given to it, and the completions follow one another
(10_state.md R73). -/
theorem handlerActs_eq (as : List HandlerAct) (s : State) :
    handlerActs as s = { s with
      ioqValid := Vector.ofFn fun p => lastIoq p s.ioqValid[p] as
      cacheEn := lastCache s.cacheEn as
      trace := s.trace ++ handlerCompletions as } := by
  induction as generalizing s with
  | nil => simp [handlerActs, lastIoq, lastCache, handlerCompletions]
  | cons a as ih =>
    rw [handlerActs, ih]
    cases a with
    | setIoq p x =>
      have hbit : ∀ q : Fin 8, (s.ioqValid.set p x)[q] = if p = q then x else s.ioqValid[q] := fun q => by
        simp [Vector.getElem_set, Fin.ext_iff]
      simp only [handlerAct, hbit]
      rfl
    | setCache x => rfl
    | complete x y z => simp [handlerAct, handlerCompletions, emit, lastIoq, lastCache]

/-! ### The statements -/

/-- Settles O28, by the first check that fails. -/
theorem firstFailingCheckWins : Obligations.FirstFailingCheckWins := by
  refine fun s tag v i n hs hi => ⟨fun hlo => ?low, fun hlo hhi => ?high, fun hl hlo => ?misaligned, fun hl hlo hhi => ?ceiling⟩
  case low => exact exec_readWrite_of_trap hs hi (checkIo_of_lba (checkLba_low hlo))
  case high => exact exec_readWrite_of_trap hs hi (checkIo_of_lba (checkLba_high hlo hhi))
  case misaligned => exact exec_readWrite_of_trap hs hi (checkIo_of_prp1 hl (checkPrp_misaligned hlo))
  case ceiling => exact exec_readWrite_of_trap hs hi (checkIo_of_prp1 hl (checkPrp_high hlo hhi))

/-- Settles O29: the submission is one storage-pipeline call. -/
theorem readSubmitsOnce : Obligations.ReadSubmitsOnce := by
  intro s tag v hs hl h1 h2
  rw [exec_read_of_pass hs hl h1 h2]
  refine ⟨fun hquiet => by rw [callPipeline_quiet _ hquiet]; rfl,
    fun l ls hpushes => by rw [callPipeline_pushes _ hpushes]; rfl, ?_⟩
  rw [submittedBlocks, Option.map_some, nblocks_toNat]

/-- Settles O30: the submission is one storage-pipeline call, in either mode. -/
theorem writeSubmitsOnce : Obligations.WriteSubmitsOnce := by
  intro s tag v a hs hl h1 h2 hplain hbarrier
  have ha : writeSubmission s.params tag v = a := by
    rw [writeSubmission]
    cases hb : s.params.barrierMode with
    | false => exact (hplain hb).symm
    | true =>
      obtain ⟨dw, henc, rfl⟩ := hbarrier hb
      cases henc
      rfl
  rw [exec_write_of_pass hs hl h1 h2, ha]
  exact ⟨fun hquiet => by rw [callPipeline_quiet _ hquiet]; rfl,
    fun l ls hpushes => by rw [callPipeline_pushes _ hpushes]; rfl⟩

/-- Settles O31: each command is made of faults, storage-pipeline calls and drains, which all keep the frame. -/
theorem ioCommandFrame : Obligations.IoCommandFrame := by
  intro s t tag v i hi hx
  refine ⟨?_, (exec_trace hx).imp fun _ => And.left⟩
  obtain rfl | rfl | rfl := hi
  · rw [exec_read, perform_eq_next] at hx
    obtain ⟨-, rfl⟩ := hx
    exact checked_frame _ _ _
  · rw [exec_write, perform_eq_next] at hx
    obtain ⟨-, rfl⟩ := hx
    exact checked_frame _ _ _
  · obtain ⟨-, rfl⟩ := exec_flush_eq_next hx
    exact (persisted_frame s).andThen (emit_frame _ _)

/-- Settles O32: the checks and the submission are the same. -/
theorem ignoredBitsHaveNoEffect : Obligations.IgnoredBitsHaveNoEffect := by
  refine fun s slot qid qid' seq seq' v w => ⟨rfl, fun h1 h2 h3 h4 h5 h6 h7 => ?_⟩
  have hcheck : ∀ n, checkIo s.params v n = checkIo s.params w n := fun n => checkIo_congr _ n h1 h2 h3 h4 h5 h6
  have hlba : startLba v = startLba w := by rw [startLba, startLba, h5, h6]
  cases hs : s.halted with
  | true => exact ⟨by rw [exec_of_halted hs, exec_of_halted hs], fun _ => by rw [exec_of_halted hs, exec_of_halted hs]⟩
  | false =>
    refine ⟨?_, fun hb => ?_⟩
    · rw [exec_read, exec_read, perform_of_running _ _ hs, perform_of_running _ _ hs, hcheck, hlba, h7]
    · rw [exec_write, exec_write, perform_of_running _ _ hs, perform_of_running _ _ hs, hcheck, hlba, h7, hb]
      rfl

/-- Settles O33: the persisting is one storage-pipeline call, and the completion is the statement after it. -/
theorem flushWithoutBarrier : Obligations.FlushWithoutBarrier := by
  intro s tag v hs hb
  rw [exec_flush_of_noBarrier hs hb]
  refine ⟨fun hquiet => ?_, fun l ls u hpushes hu => ?_⟩
  · rw [callPipeline_quiet _ hquiet, andThen_of_running (emit _ s) _ hs]
    simp [emit]
  · rw [callPipeline_pushes _ hpushes, hu]
    rfl

/-- Settles O40, by what the handler's acts do one after another. -/
theorem adminForwardsTheCommand : Obligations.AdminForwardsTheCommand := by
  intro s tag dw hs
  rw [exec_admin, perform_of_running _ _ hs, handlerActs_eq]
  simp [emit]

end Sys2Proof.Machine
end

section
/-! SUPPORT and PROOFS of the barrier drain (42_io_commands.md R180, R181): its loop, which epochs it flushes when the environment
pushes meanwhile, and the barrier FLUSH as two drains and a completion, one of which may never end. -/

namespace Sys2Proof.Machine

variable {s t u : State} {j k : StreamId} {tag : CmdTag} {v : IoView}

/-! ### The loop -/

theorem drainStream_of_stops
    (h : s.halted = true ∨ (trk s k).count = 0 ∨ (s.inp.pushes = [] ∧ s.inp.pushesNeverEnd = true)) :
    drainStream k s = s := by
  rw [drainStream_loop, if_pos (drainStops_iff.mpr h)]

/-- One round, when the loop goes on: POP, flush, and the PUSHes of the flush's return. -/
theorem drainStream_of_round (hs : s.halted = false) (hc : (trk s k).count ≠ 0)
    (hp : s.inp.pushesNeverEnd = false ∨ s.inp.pushes ≠ []) :
    drainStream k s = drainStream k (callPipeline
      (.flushBufferedWritesForEpoch k ((trk s k).buf.read s.params.epochInvalid (trk s k).head))
      (setTrk k ((trk s k).dropHead s.params.epochInvalid) s)) := by
  have hgo : ¬ drainStops k s = true := by
    rw [drainStops_iff]
    rintro (h | h | ⟨h, h'⟩)
    · rw [hs] at h; cases h
    · exact hc h
    · obtain hp | hp := hp
      · rw [hp] at h'; cases h'
      · exact hp h
  rw [drainStream_loop, if_neg hgo, drainOnce_head hc]

/-- The head of a stream stays and its count has not fallen. -/
def NotPopped (j : StreamId) (b : BarrierStream) (v : State) : Prop := (trk v j).head = b.head ∧ b.count ≤ (trk v j).count

theorem NotPopped.trkPush {b : BarrierStream} (h : NotPopped j b s) (w : Word) (e : Epoch) :
    NotPopped j b (trkPush w e s) := by
  obtain ⟨hhead, hcount⟩ := h
  obtain ⟨-, ht⟩ | ⟨-, -, -, ht⟩ | ⟨i, -, -, ht⟩ := trkPush_cases w e s <;> rw [ht, NotPopped]
  · rw [trk_raiseFault]; exact ⟨hhead, hcount⟩
  · rw [trk_raiseFault]; exact ⟨hhead, hcount⟩
  · by_cases hj : j = i
    · subst hj
      rw [trk_setTrk_same, append_head, append_count]
      exact ⟨hhead, by omega⟩
    · rw [trk_setTrk_other s hj]; exact ⟨hhead, hcount⟩

/-- A drain vacates no slot of the other stream. -/
theorem drainStream_notPopped (hj : j ≠ k) (s : State) : NotPopped j (trk s j) (drainStream k s) := by
  refine drainRounds_keeps (NotPopped j (trk s j)) (fun v _ _ h => ?_) (fun v e _ h => ?_) (fun v ls _ h => ?_)
    (fun w e v _ h => h.trkPush w e) _ s ⟨rfl, le_rfl⟩
  · rwa [NotPopped, trk_setTrk_other v hj]
  · rwa [NotPopped, trk_emit]
  · rwa [NotPopped, trk_setPushes]

/-! ### PUSHes that halt nothing, under STRICT -/

/-- Between the rounds of a drain under STRICT: the streams are as they should be, and so hold no more than 256 epochs. -/
structure StrictInv (s : State) : Prop where
  strict : s.params.capCheck = .strict
  tracker : TrackerInv s

theorem StrictInv.count_le (h : StrictInv s) (k : StreamId) : (trk s k).count ≤ Config.trkCap := by
  have hle := (h.tracker k).count_le
  rwa [h.strict] at hle

theorem StrictInv.trkPush (h : StrictInv s) (w : Word) (e : Epoch) : StrictInv (trkPush w e s) :=
  ⟨by rw [(trkPush_frame w e s).params, h.strict], trackerInv_keptByStep.trkPush w e h.tracker⟩

theorem StrictInv.callPipeline (h : StrictInv s) (hs : s.halted = false) (a : Action) : StrictInv (callPipeline a s) :=
  ⟨by rw [(callPipeline_frame a s).params, h.strict], trackerInv_keptByStep.callPipeline a hs h.tracker⟩

theorem StrictInv.dropHead (h : StrictInv s) (hc : (trk s k).count ≠ 0) :
    StrictInv (setTrk k ((trk s k).dropHead s.params.epochInvalid) s) :=
  ⟨by rw [setTrk_params, h.strict], h.tracker.setTrk k ((h.tracker k).dropHead hc)⟩

theorem epochsFor_cons (j : StreamId) (r : PushReq) (rs : List PushReq) :
    epochsFor j (r :: rs) = epochsFor j [r] ++ epochsFor j rs := by
  simp only [epochsFor, List.filter_cons, List.filter_nil]
  split <;> rfl

theorem epochsFor_append (j : StreamId) (rs rs' : List PushReq) :
    epochsFor j (rs ++ rs') = epochsFor j rs ++ epochsFor j rs' := by
  simp [epochsFor]

/-- A PUSH that takes no fault puts its epoch at the end of its stream, and of no other. -/
theorem trkPush_contents (h : StrictInv s) (r : PushReq) (ht : (trkPush r.stream r.epoch s).halted = false) (j : StreamId) :
    contents s.params.epochInvalid (trk (trkPush r.stream r.epoch s) j) =
      contents s.params.epochInvalid (trk s j) ++ epochsFor j [r] := by
  obtain ⟨hstrict, hinv⟩ := h
  obtain ⟨-, hp⟩ | ⟨-, -, -, hp⟩ | ⟨k, hw, hroom, hp⟩ := trkPush_cases r.stream r.epoch s
  · rw [hp] at ht; cases ht
  · rw [hp] at ht; cases ht
  · rw [hp]
    by_cases hj : j = k
    · subst hj
      have hlt : (trk s j).count < Config.trkCap := by
        rw [hstrict] at hroom
        exact Nat.lt_of_not_le (of_decide_eq_false hroom)
      rw [trk_setTrk_same, contents_append (hinv j).buf_wf (hinv j).tail_eq hlt]
      simp [epochsFor, hw]
    · have hne : ¬ streamWord k = streamWord j := fun h => hj (streamWord_injective h).symm
      rw [trk_setTrk_other s hj]
      simp [epochsFor, hw, hne]

/-- PUSHes that take no fault, one after another. -/
theorem pushAll_contents {rs : List PushReq} (h : StrictInv s) (hs : s.halted = false)
    (ht : (pushAll rs s).halted = false) (j : StreamId) :
    contents s.params.epochInvalid (trk (pushAll rs s) j) =
      contents s.params.epochInvalid (trk s j) ++ epochsFor j rs := by
  induction rs generalizing s with
  | nil => simp [epochsFor]
  | cons r rs ih =>
    rw [pushAll_cons] at ht ⊢
    cases hh : (trkPush r.stream r.epoch s).halted with
    | true => rw [andThen_of_halted _ _ hh, hh] at ht; cases ht
    | false =>
      rw [andThen_of_running _ _ hh] at ht ⊢
      have hrest := ih (h.trkPush r.stream r.epoch) hh ht
      rw [(trkPush_frame r.stream r.epoch s).params] at hrest
      rw [hrest, trkPush_contents h r hh, epochsFor_cons j r rs, List.append_assoc]

/-- A storage-pipeline call whose PUSHes take no fault. -/
theorem callPipeline_contents (h : StrictInv s) (hs : s.halted = false) (a : Action)
    (ht : (callPipeline a s).halted = false) (j : StreamId) :
    contents s.params.epochInvalid (trk (callPipeline a s) j) =
      contents s.params.epochInvalid (trk s j) ++ epochsFor j (s.inp.pushes.take 1).flatten := by
  cases hl : s.inp.pushes with
  | nil => rw [callPipeline_quiet a hl, trk_emit]; simp [epochsFor]
  | cons l ls =>
    rw [callPipeline_pushes a hl] at ht ⊢
    have hinv : StrictInv (setPushes ls (emit a s)) := ⟨h.strict, h.tracker.congr rfl rfl rfl⟩
    have hpush := pushAll_contents hinv hs ht j
    rw [trk_setPushes, trk_emit] at hpush
    simpa using hpush

/-! ### What a drain flushes, under STRICT -/

/-- A halted block drains nothing. -/
theorem drainRounds_of_halted (n : Nat) (h : s.halted = true) : drainRounds k n s = s := by
  cases n with
  | zero => rfl
  | succ n => rw [drainRounds_succ, if_pos (drainStops_iff.mpr (.inl h))]

/-- What has been done between `s` and `r` by rounds of the drain of stream `k`: the PUSH lists `taken`, and as many flushes of
epochs as have left stream `k`, which is a queue meanwhile. -/
structure Drained (k : StreamId) (s r : State) (taken : List (List PushReq)) (flushed : List Epoch) : Prop where
  pushes : s.inp.pushes = taken ++ r.inp.pushes
  trace : r.trace = s.trace ++ flushesOf k flushed
  queue : flushed ++ contents s.params.epochInvalid (trk r k) =
    contents s.params.epochInvalid (trk s k) ++ epochsFor k taken.flatten
  other : ∀ j, j ≠ k → contents s.params.epochInvalid (trk r j) =
    contents s.params.epochInvalid (trk s j) ++ epochsFor j taken.flatten

theorem Drained.refl (k : StreamId) (s : State) : Drained k s s [] [] :=
  ⟨rfl, by simp [flushesOf], by simp [epochsFor], fun j _ => by simp [epochsFor]⟩

theorem Drained.trans {taken taken' : List (List PushReq)} {es es' : List Epoch} (hp : u.params = s.params)
    (h : Drained k s u taken es) (h' : Drained k u t taken' es') : Drained k s t (taken ++ taken') (es ++ es') where
  pushes := by rw [h.pushes, h'.pushes, List.append_assoc]
  trace := by rw [h'.trace, h.trace, flushesOf, flushesOf, flushesOf, List.map_append, List.append_assoc]
  queue := by
    have hq := h'.queue
    rw [hp] at hq
    rw [List.append_assoc, hq, ← List.append_assoc, h.queue, List.flatten_append, epochsFor_append, List.append_assoc]
  other j hj := by
    have ho := h'.other j hj
    rw [hp] at ho
    rw [ho, h.other j hj, List.flatten_append, epochsFor_append, List.append_assoc]

/-- One round that no PUSH halts. -/
theorem drainOnce_drained (h : StrictInv s) (hs : s.halted = false) (hc : (trk s k).count ≠ 0)
    (ht : (drainOnce k s).halted = false) :
    Drained k s (drainOnce k s) (s.inp.pushes.take 1) [(trk s k).buf.read s.params.epochInvalid (trk s k).head] := by
  obtain ⟨e, he⟩ : ∃ e, e = (trk s k).buf.read s.params.epochInvalid (trk s k).head := ⟨_, rfl⟩
  obtain ⟨w, hw⟩ : ∃ w, w = setTrk k ((trk s k).dropHead s.params.epochInvalid) s := ⟨_, rfl⟩
  have hround : drainOnce k s = callPipeline (.flushBufferedWritesForEpoch k e) w := by rw [drainOnce_head hc, he, hw]
  have hwinp : w.inp = s.inp := by rw [hw, setTrk_inp]
  have hcontents : ∀ j, contents s.params.epochInvalid (trk (drainOnce k s) j) =
      contents s.params.epochInvalid (trk w j) ++ epochsFor j (s.inp.pushes.take 1).flatten := by
    rw [hround] at ht ⊢
    have hcall := callPipeline_contents (hw ▸ h.dropHead hc) (by rw [hw, setTrk_halted, hs]) _ ht
    rwa [hwinp, hw, setTrk_params, ← hw] at hcall
  rw [← he]
  refine ⟨?_, ?_, ?_, fun j hj => ?_⟩
  · rw [hround, callPipeline_inp_pushes, hwinp]
    exact (List.take_append_drop 1 s.inp.pushes).symm.trans (by rw [List.drop_one])
  · rw [hround, callPipeline_trace, hw, setTrk_trace]
    rfl
  · rw [hcontents, hw, trk_setTrk_same, contents_dropHead hc (h.count_le k), ← he]
    rfl
  · rw [hcontents, hw, trk_setTrk_other s hj]

/-- A drain that no PUSH halts. -/
theorem drainRounds_drained (n : Nat) : ∀ {s : State}, StrictInv s → s.halted = false →
    (drainRounds k n s).halted = false → ∃ taken es, Drained k s (drainRounds k n s) taken es := by
  induction n with
  | zero => exact fun {s} _ _ _ => ⟨[], [], .refl k s⟩
  | succ n ih =>
    intro s h hs ht
    rw [drainRounds_succ] at ht ⊢
    by_cases hstop : drainStops k s = true
    · rw [if_pos hstop]
      exact ⟨[], [], .refl k s⟩
    · rw [if_neg hstop] at ht ⊢
      obtain ⟨-, hc⟩ := running_of_not_stops hstop
      have hu : (drainOnce k s).halted = false := by
        cases hu : (drainOnce k s).halted with
        | false => rfl
        | true => rw [drainRounds_of_halted n hu, hu] at ht; cases ht
      have hinv : StrictInv (drainOnce k s) := by
        rw [drainOnce_head hc]
        exact (h.dropHead hc).callPipeline (by rw [setTrk_halted, hs]) _
      obtain ⟨taken, es, hrest⟩ := ih hinv hu ht
      exact ⟨_, _, (drainOnce_drained h hs hc hu).trans (drainOnce_frame k s).params hrest⟩

/-! ### The two drains of a barrier FLUSH -/

/-- Everything a drain can do: a next state, the block halted or the stream empty, or the fault of a drain that never ends. -/
theorem drain_cases (k : StreamId) (s : State) :
    (drain k s = .next (drainStream k s) ∧ ((drainStream k s).halted = true ∨ (trk (drainStream k s) k).count = 0)) ∨
    (drain k s = .fault (.drainNeverEnds k (drainStream k s).trace) ∧ s.inp.pushesNeverEnd = true) := by
  by_cases h : (drainStream k s).halted = true ∨ (trk (drainStream k s) k).count = 0
  · exact .inl ⟨drain_of_ends h, h⟩
  · obtain ⟨hh, hc⟩ := not_or.mp h
    obtain hends | hends | ⟨-, hnever⟩ := drainStream_ends k s
    · exact absurd hends hh
    · exact absurd hends hc
    · exact .inr ⟨drain_of_endless (Bool.eq_false_iff.mpr hh) hc, hnever⟩

theorem exec_flush_of_barrier (hs : s.halted = false) (hb : s.params.barrierMode = true) :
    exec (.flush tag v) s =
      onNext (onNext (drain .one s) (drain .two)) fun t => .next (andThen t (emit (.postCompletion tag.slot 0 0))) := by
  rw [exec_flush, attempt_of_running _ _ hs, flushPersist, if_pos hb]

/-- A barrier FLUSH whose first drain ends. -/
theorem exec_flush_of_drain_one (hs : s.halted = false) (hb : s.params.barrierMode = true)
    (h : (drainStream .one s).halted = true ∨ (drainStream .one s).trk1.count = 0) :
    exec (.flush tag v) s =
      onNext (drain .two (drainStream .one s)) fun t => .next (andThen t (emit (.postCompletion tag.slot 0 0))) := by
  rw [exec_flush_of_barrier hs hb, drain_of_ends (k := .one) h, onNext_next]

/-- A barrier FLUSH whose drains both end. -/
theorem exec_flush_of_drains (hs : s.halted = false) (hb : s.params.barrierMode = true)
    (h1 : (drainStream .one s).halted = true ∨ (drainStream .one s).trk1.count = 0)
    (h2 : (drainStream .two (drainStream .one s)).halted = true ∨ (drainStream .two (drainStream .one s)).trk2.count = 0) :
    exec (.flush tag v) s =
      .next (andThen (drainStream .two (drainStream .one s)) (emit (.postCompletion tag.slot 0 0))) := by
  rw [exec_flush_of_drain_one hs hb h1, drain_of_ends (k := .two) h2, onNext_next]

/-- The two drains emit flushes of stream 1 and then of stream 2. -/
theorem drains_trace (s : State) : ∃ es₁ es₂,
    (drainStream .one s).trace = s.trace ++ flushesOf .one es₁ ∧
    (drainStream .two (drainStream .one s)).trace = s.trace ++ flushesOf .one es₁ ++ flushesOf .two es₂ := by
  obtain ⟨es₁, h1⟩ := drainStream_trace .one s
  obtain ⟨es₂, h2⟩ := drainStream_trace .two (drainStream .one s)
  exact ⟨es₁, es₂, h1, by rw [h2, h1]⟩

/-- Everything a barrier FLUSH can do: both drains end, or the one or the other never does. -/
theorem exec_flush_barrier_cases (hs : s.halted = false) (hb : s.params.barrierMode = true) :
    (((drainStream .one s).halted = true ∨ (drainStream .one s).trk1.count = 0) ∧
      ((drainStream .two (drainStream .one s)).halted = true ∨ (drainStream .two (drainStream .one s)).trk2.count = 0) ∧
      exec (.flush tag v) s =
        .next (andThen (drainStream .two (drainStream .one s)) (emit (.postCompletion tag.slot 0 0)))) ∨
    (s.inp.pushesNeverEnd = true ∧
      exec (.flush tag v) s = .fault (.drainNeverEnds .one (drainStream .one s).trace)) ∨
    (s.inp.pushesNeverEnd = true ∧
      exec (.flush tag v) s = .fault (.drainNeverEnds .two (drainStream .two (drainStream .one s)).trace)) := by
  obtain ⟨-, h1⟩ | ⟨h1, hnever⟩ := drain_cases .one s
  · obtain ⟨-, h2⟩ | ⟨h2, hnever⟩ := drain_cases .two (drainStream .one s)
    · exact .inl ⟨h1, h2, exec_flush_of_drains hs hb h1 h2⟩
    · rw [(drainStream_frame .one s).inp_pushesNeverEnd] at hnever
      exact .inr (.inr ⟨hnever, by rw [exec_flush_of_drain_one hs hb h1, h2, onNext_fault]⟩)
  · exact .inr (.inl ⟨hnever, by rw [exec_flush_of_barrier hs hb, h1, onNext_fault, onNext_fault]⟩)

/-! ### An environment that pushes at every return -/

/-- Below its bound a stream has room for one more epoch. -/
theorem room_of_count_lt {c : CapCheck} {n : Nat} (h : n < maxCount c) : capacityExceeded c n = false := by
  cases c with
  | strict => exact decide_eq_false (Nat.not_le_of_lt h)
  | reference => exact decide_eq_false (Nat.not_lt_of_le (Nat.le_of_lt_succ h))

/-- One round at whose return the environment pushes one epoch onto the drained stream: there is room for it, and the count is what
it was. -/
theorem drainStream_of_pushed_round {e : Epoch} {ls : List (List PushReq)} (hs : s.halted = false)
    (hc : (trk s k).count ≠ 0) (hle : (trk s k).count ≤ maxCount s.params.capCheck)
    (hp : s.inp.pushes = [⟨streamWord k, e⟩] :: ls) :
    ∃ w e', drainStream k s = drainStream k w ∧ w.halted = false ∧ (trk w k).count = (trk s k).count ∧
      w.params = s.params ∧ w.inp = { s.inp with pushes := ls } ∧
      w.trace = s.trace ++ [.flushBufferedWritesForEpoch k e'] := by
  obtain ⟨e', he'⟩ : ∃ e', e' = (trk s k).buf.read s.params.epochInvalid (trk s k).head := ⟨_, rfl⟩
  obtain ⟨x, hx⟩ : ∃ x, x = setPushes ls (emit (.flushBufferedWritesForEpoch k e')
    (setTrk k ((trk s k).dropHead s.params.epochInvalid) s)) := ⟨_, rfl⟩
  have hxtrk : trk x k = (trk s k).dropHead s.params.epochInvalid := by rw [hx, trk_setPushes, trk_emit, trk_setTrk_same]
  have hxparams : x.params = s.params := by rw [hx, setPushes_params, emit_params, setTrk_params]
  have hroom : capacityExceeded x.params.capCheck (trk x k).count = false := by
    rw [hxtrk, hxparams, dropHead_count]
    exact room_of_count_lt (by omega)
  have hround : drainStream k s = drainStream k (setTrk k ((trk x k).append x.params.epochInvalid e) x) := by
    rw [drainStream_of_round hs hc (.inr (by rw [hp]; nofun)), ← he',
      callPipeline_pushes (s := setTrk k _ s) _ (by rw [setTrk_inp, hp]), ← hx, pushAll_singleton, trkPush_append hroom]
  refine ⟨_, e', hround, ?_, ?_, ?_, ?_, ?_⟩
  · rw [setTrk_halted, hx, setPushes_halted, emit_halted, setTrk_halted, hs]
  · rw [trk_setTrk_same, append_count, hxtrk, dropHead_count, Nat.sub_add_cancel (by omega)]
  · rw [setTrk_params, hxparams]
  · rw [setTrk_inp, hx, setPushes_inp, emit_inp, setTrk_inp]
  · rw [setTrk_trace, hx, setPushes_trace, emit_trace, setTrk_trace]

theorem drainStream_of_pushing (n : Nat) {e : Epoch} : ∀ {s : State}, s.halted = false → (trk s k).count ≠ 0 →
    (trk s k).count ≤ maxCount s.params.capCheck → s.inp.pushes = List.replicate n [⟨streamWord k, e⟩] →
    s.inp.pushesNeverEnd = true →
      (drainStream k s).halted = false ∧ (trk (drainStream k s) k).count = (trk s k).count ∧
        (drainStream k s).inp.pushes = [] ∧
        ∃ es, es.length = n ∧ (drainStream k s).trace = s.trace ++ flushesOf k es := by
  induction n with
  | zero =>
    intro s hs _ _ hp hnever
    rw [drainStream_of_stops (.inr (.inr ⟨hp, hnever⟩))]
    exact ⟨hs, rfl, hp, [], rfl, by simp [flushesOf]⟩
  | succ n ih =>
    intro s hs hc hle hp hnever
    obtain ⟨w, e', hround, hw, hwc, hwparams, hwinp, hwtrace⟩ := drainStream_of_pushed_round hs hc hle hp
    obtain ⟨hh, hcount, hpushes, es, hes, htrace⟩ :=
      ih hw (by rwa [hwc]) (by rwa [hwc, hwparams]) (by rw [hwinp]) (by rw [hwinp, hnever])
    rw [hround]
    exact ⟨hh, hcount.trans hwc, hpushes, e' :: es, by rw [List.length_cons, hes],
      by rw [htrace, hwtrace, List.append_assoc]; rfl⟩

/-! ### A drain without PUSHes -/

theorem setTrk_trk (k : StreamId) (s : State) : setTrk k (trk s k) s = s := by cases k <;> rfl

/-- An empty stream that is as it should be has only its place left. -/
theorem StreamOk.eq_of_count_zero {p : Params} {b : BarrierStream} (h : StreamOk p b) (hc : b.count = 0) :
    b = ⟨[], b.tail, b.tail, 0⟩ := by
  calc b = ⟨b.buf, b.head, b.tail, b.count⟩ := rfl
    _ = ⟨[], b.tail, b.tail, 0⟩ := by rw [h.buf_of_count_zero hc, ← h.tail_of_count_zero hc, hc]

/-- A drain at which nothing is pushed flushes what popping the stream until it is empty returns, and leaves it empty. -/
theorem drainStream_quiet {n : Nat} : ∀ {s : State}, s.halted = false → s.inp.pushes = [] → s.inp.pushesNeverEnd = false →
    StreamOk s.params (trk s k) → (trk s k).count = n →
      drainStream k s = { setTrk k ⟨[], (trk s k).tail, (trk s k).tail, 0⟩ s with
        trace := s.trace ++ flushesOf k (poppedFrom s.params.epochInvalid (trk s k)) } := by
  induction n with
  | zero =>
    intro s _ _ _ hok hc
    rw [drainStream_of_stops (.inr (.inl hc)), ← hok.eq_of_count_zero hc, poppedFrom_of_count_zero hc, setTrk_trk]
    simp [flushesOf]
  | succ n ih =>
    intro s hs hp hnever hok hc
    have hne : (trk s k).count ≠ 0 := by omega
    obtain ⟨e, he⟩ : ∃ e, e = (trk s k).buf.read s.params.epochInvalid (trk s k).head := ⟨_, rfl⟩
    obtain ⟨w, hw⟩ : ∃ w, w = emit (.flushBufferedWritesForEpoch k e)
      (setTrk k ((trk s k).dropHead s.params.epochInvalid) s) := ⟨_, rfl⟩
    have hwtrk : trk w k = (trk s k).dropHead s.params.epochInvalid := by rw [hw, trk_emit, trk_setTrk_same]
    have hwparams : w.params = s.params := by rw [hw, emit_params, setTrk_params]
    have hwinp : w.inp = s.inp := by rw [hw, emit_inp, setTrk_inp]
    have hrest := ih (s := w) (by rw [hw, emit_halted, setTrk_halted, hs]) (by rw [hwinp, hp]) (by rw [hwinp, hnever])
      (by rw [hwparams, hwtrk]; exact hok.dropHead hne) (by rw [hwtrk, dropHead_count, hc, Nat.add_sub_cancel])
    rw [drainStream_of_round hs hne (.inl hnever), ← he, callPipeline_quiet (s := setTrk k _ s) _ (by rw [setTrk_inp, hp]),
      ← hw, hrest, hwtrk, hwparams, poppedFrom_dropHead hok.buf_wf hne, ← he, hw]
    cases k <;> simp [emit, setTrk, flushesOf]

/-! ### The statements -/

/-- Settles O34, by the loop, by how its rounds end, and by what they keep of the other stream. -/
theorem drainFollowsItsLoop : Obligations.DrainFollowsItsLoop := by
  intro k s u
  refine ⟨drainStream_of_stops, fun hs hc hp hu => ?_, drainStream_ends k s, fun j hj => drainStream_notPopped hj s⟩
  rw [drainStream_of_round hs hc hp, callPipeline_eq, hu, setTrk_trace, setTrk_inp]
  rfl

/-- Settles O35: once the stream is empty, what has left it is all it held and was given. -/
theorem drainFlushesWhatIsPushed : Obligations.DrainFlushesWhatIsPushed := by
  intro k s hstrict hs hinv ht hc
  obtain ⟨taken, es, hpushes, htrace, hqueue, hother⟩ := drainRounds_drained _ ⟨hstrict, hinv⟩ hs ht
  have hempty : contents s.params.epochInvalid (trk (drainStream k s) k) = [] := contents_of_count_zero hc
  rw [show contents s.params.epochInvalid (trk (drainRounds k _ s) k) = [] from hempty, List.append_nil] at hqueue
  rw [hqueue] at htrace
  exact ⟨taken, hpushes, htrace, hempty, hother⟩

/-- Settles O36, by the cases of a barrier FLUSH. -/
theorem barrierFlushDrainsInOrder : Obligations.BarrierFlushDrainsInOrder := by
  rintro s u₁ u₂ tag v hs hb rfl rfl
  refine ⟨fun h1 => ?halted, fun h1 hc1 => ⟨fun h2 => ?halted2, fun h2 hc2 => ?completed⟩, fun hnever => ?ends, fun t ht => ?order⟩
  case halted =>
    have h2 := drainStream_of_halted .two h1
    rw [exec_flush_of_drains hs hb (.inl h1) (.inl (by rw [h2, h1])), h2, andThen_of_halted _ _ h1]
  case halted2 => rw [exec_flush_of_drains hs hb (.inr hc1) (.inl h2), andThen_of_halted _ _ h2]
  case completed => rw [exec_flush_of_drains hs hb (.inr hc1) (.inr hc2), andThen_of_running _ _ h2, emit]
  case ends =>
    obtain ⟨-, -, hx⟩ | ⟨hnever', -⟩ | ⟨hnever', -⟩ := exec_flush_barrier_cases (tag := tag) (v := v) hs hb
    · exact ⟨_, hx⟩
    all_goals rw [hnever] at hnever'; cases hnever'
  case order =>
    obtain ⟨es₁, es₂, -, htrace⟩ := drains_trace s
    refine ⟨es₁, es₂, ?_⟩
    obtain ⟨-, hend, hx⟩ | ⟨-, hx⟩ | ⟨-, hx⟩ := exec_flush_barrier_cases (tag := tag) (v := v) hs hb
    · cases hx.symm.trans ht
      cases hh : (drainStream .two (drainStream .one s)).halted with
      | true =>
        rw [andThen_of_halted _ _ hh]
        exact ⟨fun h => absurd (hh.symm.trans h) (by decide), fun _ => htrace⟩
      | false =>
        rw [andThen_of_running _ _ hh]
        refine ⟨fun _ => ⟨by rw [emit_trace, htrace], hend.resolve_left (by rw [hh]; decide)⟩, fun h => ?_⟩
        rw [emit_halted, hh] at h
        cases h
    all_goals cases hx.symm.trans ht

/-- Settles O37, by the cases of a barrier FLUSH, and by the tick that dispatches it. -/
theorem endlessDrainIsStuck : Obligations.EndlessDrainIsStuck := by
  rintro s u₁ u₂ tag v hs hb rfl rfl
  refine ⟨fun h1 hc1 => ?one, fun h1 hc1 h2 hc2 => ?two, fun r hr => ?only, fun s₀ w inp c q r hv hrun hp hd hw hr => ?tick⟩
  case one =>
    rw [exec_flush_of_barrier hs hb, drain_of_endless (k := .one) h1 hc1, onNext_fault, onNext_fault]
  case two =>
    rw [exec_flush_of_drain_one hs hb (.inr hc1), drain_of_endless (k := .two) h2 hc2, onNext_fault]
  case only =>
    obtain ⟨es₁, es₂, htrace1, htrace2⟩ := drains_trace s
    obtain ⟨-, -, hx⟩ | ⟨hnever, hx⟩ | ⟨hnever, hx⟩ := exec_flush_barrier_cases (tag := tag) (v := v) hs hb
    · cases hx.symm.trans hr
    · cases hx.symm.trans hr
      exact ⟨hnever, .one, es₁, [], by rw [htrace1]; simp [flushesOf], fun _ => rfl⟩
    · cases hx.symm.trans hr
      exact ⟨hnever, .two, es₁, es₂, by rw [htrace2], nofun⟩
  case tick => rw [step_of_tickOn hv, tick_of_dispatch hrun hp hd, ← hw, hr, onNext_fault]

/-- Settles O38, by induction over the returns. -/
theorem pushingAtEveryReturnKeepsTheDrainGoing : Obligations.PushingAtEveryReturnKeepsTheDrainGoing := by
  rintro n k e s t hs hc hle rfl
  have htrk : trk { s with inp := { s.inp with
      pushes := List.replicate n [⟨streamWord k, e⟩], pushesNeverEnd := true } } k = trk s k := by cases k <;> rfl
  have h := drainStream_of_pushing n (k := k) (e := e) (s := { s with inp := { s.inp with
      pushes := List.replicate n [⟨streamWord k, e⟩], pushesNeverEnd := true } }) hs (by rwa [htrk]) (by rwa [htrk]) rfl rfl
  rwa [htrk] at h

/-- Settles O39, by the two drains at which nothing is pushed, and by what popping a stream until it is empty returns. -/
theorem barrierFlushFlushesTheContents : Obligations.BarrierFlushFlushesTheContents := by
  refine ⟨fun s tag v hs hb hp hnever hinv => ?_, fun inv b => ⟨poppedFrom_eq_contents, poppedFrom_overflowed⟩⟩
  have h1 := drainStream_quiet (k := .one) hs hp hnever (hinv .one) rfl
  have h2 := drainStream_quiet (k := .two) (s := drainStream .one s) (by rw [h1]; exact hs) (by rw [h1]; exact hp)
    (by rw [h1]; exact hnever) (by rw [h1]; exact hinv .two) rfl
  rw [exec_flush_of_drains hs hb (.inr (by rw [h1]; rfl)) (.inr (by rw [h2]; rfl)),
    andThen_of_running _ _ (by rw [h2, h1]; exact hs), h2, h1]
  rfl

end Sys2Proof.Machine
end
